-- ==== Sys2Proof/Word.lean ====
section
/-! DEFINITION. The word types of the M2480 (00 "Units of time and size") and their plainest arithmetic. -/

namespace Sys2Proof

/-- A stream port's data size, and the unit in which payloads are held: 32 bits. -/
abbrev Word := BitVec 32

/-- A register of the register window: 16 bits. -/
abbrev Reg := BitVec 16

/-- A 64-bit word with its 8 check bits, as the stack stores it: check bits in 71 to 64 (R5). -/
abbrev StackWord := BitVec 72

/-- The number of ones of a bit vector. -/
def weight {n : Nat} (x : BitVec n) : Nat :=
  ((List.range n).filter fun i => x.getLsbD i).length

/-- The one-bit vector with a one at position `i`. -/
def oneBit (n i : Nat) : BitVec n := 1#n <<< i

/-- `true` as 1, `false` as 0, in `n` bits. -/
def bit (n : Nat) (b : Bool) : BitVec n := if b then 1#n else 0#n

end Sys2Proof
end

