-- ==== Sys2Proof/Config.lean ====
section
/-! DEFINITION. What the manual leaves open: the free values, and the check code with the properties R142 gives it.
A free value is a constant with no body. -/

namespace Sys2Proof

/-- R142: any single wrong bit among the 72 bits of a word and its code can be located, and no pattern of two wrong bits is
taken for a single one. Both say that two different words differ, with their codes, in at least four places. -/
def SecDed (code : BitVec 64 → BitVec 8) : Prop :=
  ∀ d e : BitVec 64, d ≠ e → 4 ≤ weight (d ^^^ e) + weight (code d ^^^ code e)

/-- A check code as R142 allows it. -/
structure CheckCode where
  code : BitVec 64 → BitVec 8
  secDed : SecDed code

/-! ### A code with the properties exists -/

/-- The eight check bits a data bit takes part in: 64 different columns of odd weight. -/
def sampleColumns : List Nat :=
  [7, 11, 13, 14, 19, 21, 22, 25, 26, 28, 35, 37, 38, 41, 42, 44]
    ++ [49, 50, 52, 56, 67, 69, 70, 73, 74, 76, 81, 82, 84, 88, 97, 98]
    ++ [100, 104, 112, 131, 133, 134, 137, 138, 140, 145, 146, 148, 152, 161, 162, 164]
    ++ [168, 176, 193, 194, 196, 200, 208, 224, 31, 47, 55, 59, 61, 62, 79, 87]

/-- The column of data bit `i`. -/
def sampleColumn (i : Nat) : BitVec 8 := BitVec.ofNat 8 (sampleColumns.getD i 0)

/-- The exclusive or of the columns of a list of bit positions. -/
def columnSum : List Nat → BitVec 8
  | [] => 0#8
  | i :: is => sampleColumn i ^^^ columnSum is

/-- The positions of the ones of a data word. -/
def ones (d : BitVec 64) : List Nat := (List.range 64).filter fun i => d.getLsbD i

/-- One code of the family R142 describes. It serves only to show that the family is not empty. -/
def sampleCode (d : BitVec 64) : BitVec 8 := columnSum (ones d)

/-- The parity of eight check bits. -/
def parity8 (c : BitVec 8) : Bool :=
  (((c.getLsbD 0 ^^ c.getLsbD 1) ^^ (c.getLsbD 2 ^^ c.getLsbD 3)) ^^
    ((c.getLsbD 4 ^^ c.getLsbD 5) ^^ (c.getLsbD 6 ^^ c.getLsbD 7)))

theorem xor_swap (p q r s : Bool) : ((p ^^ q) ^^ (r ^^ s)) = ((p ^^ r) ^^ (q ^^ s)) := by
  cases p <;> cases q <;> cases r <;> cases s <;> rfl

theorem parity8_xor (a b : BitVec 8) : parity8 (a ^^^ b) = (parity8 a ^^ parity8 b) := by
  simp only [parity8, BitVec.getLsbD_xor]
  rw [xor_swap (a.getLsbD 0), xor_swap (a.getLsbD 2), xor_swap (a.getLsbD 4), xor_swap (a.getLsbD 6),
    xor_swap (a.getLsbD 0 ^^ _), xor_swap (a.getLsbD 4 ^^ _), xor_swap ((a.getLsbD 0 ^^ _) ^^ _)]

theorem sampleColumn_table :
    ∀ i : Fin 64, parity8 (sampleColumn i) = true ∧ 3 ≤ weight (sampleColumn i) := by
  decide +kernel

theorem sampleColumns_nodup : sampleColumns.Nodup := by decide +kernel

theorem weight_of_parity8 :
    ∀ c : BitVec 8, (parity8 c = true → 1 ≤ weight c) ∧ (parity8 c = false → c ≠ 0#8 → 2 ≤ weight c) := by
  decide +kernel

theorem columnSum_append (p q : List Nat) : columnSum (p ++ q) = columnSum p ^^^ columnSum q := by
  induction p with
  | nil => simp [columnSum]
  | cons i is ih => simp [columnSum, ih, BitVec.xor_assoc]

/-- The columns of the ones of a sum are those of the parts: the code is linear. -/
theorem columnSum_xor (d e : BitVec 64) (is : List Nat) :
    columnSum (is.filter fun i => (d ^^^ e).getLsbD i)
      = columnSum (is.filter fun i => d.getLsbD i) ^^^ columnSum (is.filter fun i => e.getLsbD i) := by
  induction is with
  | nil => simp [columnSum]
  | cons i is ih =>
    simp only [BitVec.getLsbD_xor] at ih ⊢
    cases hd : d.getLsbD i <;> cases he : e.getLsbD i <;>
      simp [List.filter, hd, he, columnSum, ih, BitVec.xor_assoc]
    · rw [← BitVec.xor_assoc, ← BitVec.xor_assoc, BitVec.xor_comm (sampleColumn i)]
    · rw [BitVec.xor_comm _ (sampleColumn i ^^^ _), BitVec.xor_assoc, ← BitVec.xor_assoc (sampleColumn i),
        BitVec.xor_self, BitVec.zero_xor, BitVec.xor_comm]

theorem sampleCode_xor (d e : BitVec 64) : sampleCode d ^^^ sampleCode e = sampleCode (d ^^^ e) :=
  (columnSum_xor d e _).symm

theorem sampleColumn_inj {i j : Nat} (hi : i < 64) (hj : j < 64) (h : sampleColumn i = sampleColumn j) : i = j := by
  have hl : sampleColumns.length = 64 := by decide
  have small : ∀ k : Fin 64, (sampleColumns.getD k 0) % 256 = sampleColumns.getD k 0 := by decide +kernel
  have hn : sampleColumns.getD i 0 = sampleColumns.getD j 0 := by
    rw [← small ⟨i, hi⟩, ← small ⟨j, hj⟩]
    exact congrArg BitVec.toNat h
  have hi' : i < sampleColumns.length := by omega
  have hj' : j < sampleColumns.length := by omega
  simp only [List.getD_eq_getElem?_getD, List.getElem?_eq_getElem hi', List.getElem?_eq_getElem hj',
    Option.getD_some] at hn
  exact (List.getElem_inj sampleColumns_nodup).1 hn

/-- A data error of one to three bits changes at least as many check bits as make four wrong places in all. -/
theorem weight_sampleCode {e : BitVec 64} (h : e ≠ 0#64) : 4 ≤ weight e + weight (sampleCode e) := by
  have hw : weight e = (ones e).length := rfl
  have hlt : ∀ i ∈ ones e, i < 64 := fun i hi => by
    simpa using (List.mem_filter.1 hi).1
  have hnd : (ones e).Nodup := List.Nodup.sublist List.filter_sublist List.nodup_range
  have odd : ∀ i, i < 64 → parity8 (sampleColumn i) = true ∧ 3 ≤ weight (sampleColumn i) :=
    fun i hi => sampleColumn_table ⟨i, hi⟩
  rw [hw]
  unfold sampleCode
  match hl : ones e with
  | [] =>
    refine absurd (BitVec.eq_of_getLsbD_eq fun i hi => ?_) h
    have := List.filter_eq_nil_iff.1 hl i (by simpa using hi)
    simpa using this
  | [i] =>
    have hi := (odd i (hlt i (by simp [hl]))).2
    simp only [columnSum, BitVec.xor_zero, List.length]
    omega
  | [i, j] =>
    have hi := hlt i (by simp [hl])
    have hj := hlt j (by simp [hl])
    have hne : i ≠ j := by
      rw [hl] at hnd
      simpa using hnd
    have hp : parity8 (sampleColumn i ^^^ sampleColumn j) = false := by
      simp [parity8_xor, (odd i hi).1, (odd j hj).1]
    have := (weight_of_parity8 _).2 hp fun h0 => hne (sampleColumn_inj hi hj (BitVec.xor_eq_zero_iff.1 h0))
    simp only [columnSum, BitVec.xor_zero, List.length]
    omega
  | [i, j, k] =>
    have hp : parity8 (sampleColumn i ^^^ (sampleColumn j ^^^ sampleColumn k)) = true := by
      simp [parity8_xor, (odd i (hlt i (by simp [hl]))).1, (odd j (hlt j (by simp [hl]))).1,
        (odd k (hlt k (by simp [hl]))).1]
    have := (weight_of_parity8 _).1 hp
    simp only [columnSum, BitVec.xor_zero, List.length]
    omega
  | _ :: _ :: _ :: _ :: _ =>
    simp only [List.length]
    omega

theorem sampleCode_secDed : SecDed sampleCode := by
  intro d e hne
  rw [sampleCode_xor]
  exact weight_sampleCode fun h => hne (BitVec.xor_eq_zero_iff.1 h)

/-- The beats one PATTERN READ captured, each given by the bits in which it differs from the fixed pattern's beat for its
lane: eight beats on each of the lanes 0 to 3, eight of four bits on the check lane (R5, R159; log 7). -/
structure CapturedBeats where
  data : Vector (Vector (BitVec 8) 8) 4
  check : Vector (BitVec 4) 8
  deriving DecidableEq, Repr, Inhabited

/-! ### The free values -/

/-- FREE VALUE. Some check code of the family R142 describes, once the family has a member. No body: nothing says which. -/
opaque Config.anyCheckCode [Inhabited CheckCode] : CheckCode

/-- The part's check code (R142): free, but for the properties of its type. -/
def Config.checkCode : CheckCode := @Config.anyCheckCode ⟨⟨sampleCode, sampleCode_secDed⟩⟩

/-- FREE VALUE. The word the stack holds at a word address that nothing has written since the contents were last lost
(R8, R19, R22), by the count of those losses. -/
opaque Config.unknownWord : Nat → Nat → StackWord

/-- FREE VALUE. The bits by which the words of the return at an mclk count differ from the words the stack was sent, where
the part takes the return by itself (R19, R143). -/
opaque Config.returnFlips : Nat → List StackWord

/-- FREE VALUE. The beats captured at a data end that the part takes by itself, by the mclk count (R159). -/
opaque Config.capturedBeats : Nat → CapturedBeats

/-- FREE VALUE. What a strobe on an IN port samples from lines the command names no word for (R133, R138), by a counter. -/
opaque Config.undrivenWord : Nat → Word

/-- FREE VALUE. The mark line of the same strobe. -/
opaque Config.undrivenMark : Nat → Bool

/-- FREE VALUE. What the address bits of a paired item read as while the address is absent (11.7 gives no value). -/
opaque Config.absentBurst : Nat → BitVec 25

end Sys2Proof
end

