-- ==== Sys2Proof/Syntax.lean ====
section
/-! DEFINITION. The commands of the M2480: one constructor of `Instr` for each row of spec/opcode_table.json. -/

namespace Sys2Proof

/-- The size of an access (R23): a burst of 32 bytes or half a burst. -/
inductive Size where
  | full
  | half
  deriving DecidableEq, Repr

/-- The two flag registers, and the two mask registers beside them (11.7). -/
inductive FlagReg where
  | a
  | b
  deriving DecidableEq, Repr

/-- The read-only items that are held in a pair of registers (R177). -/
inductive PairedItem where
  | firstFault
  | lastCorrected
  | scrubPointer
  | scrubRecord
  deriving DecidableEq, Repr

/-- The commands that reach the part. The first group travels on the host port, the second on the pins, and the third are
the part's own events. A bank is numbered across the stack as R47 gives. -/
inductive Instr where
  | submit (channel : Fin 8) (slot : Fin 64)
  | enable (channel : Fin 8)
  | disable (channel : Fin 8)
  | cancel (channel : Fin 8)
  | resume (channel : Fin 8)
  | flush (port : Fin 8)
  | start
  | recal
  | stop
  | park
  | unpark
  | clearFaults
  | pop
  | windowRead (size : Size)
  | windowWrite (size : Size)
  | transferReset
  | deviceReset
  | resetPin
  | flagClear (register : FlagReg) (value : Reg)
  | maskWrite (register : FlagReg) (value : Reg)
  | descriptorFieldWrite (field : Fin 8) (value : Reg)
  | portDirectionWrite (port : Fin 4) (value : Reg)
  | portEnableWrite (port : Fin 4) (value : Reg)
  | layersWrite (value : Reg)
  | scrubEnWrite (value : Reg)
  | pairedLowRead (item : PairedItem)
  | registerWrite (index : BitVec 8) (value : Reg)
  | portArrival (port : Fin 4) (word : Word) (mark : Bool)
  | portTake (port : Fin 4)
  | wordPlacement (channel : Fin 4)
  | admission
  | commandSlot
  | a2cExpiry (bank : Fin 32)
  | shtExpiry (bank : Fin 32)
  | autoShut (bank : Fin 32)
  | idleTimerExpiry (bank : Fin 32)
  | renewingTimerExpiry (layer : Fin 2)
  | renewTimerExpiry (layer : Fin 2)
  | settleExpiry
  | patternReadDataEnd (beats : CapturedBeats)
  | recalSweepStart
  | stopComplete
  | xptExpiry
  | holdoffExpiry
  | scrubIntervalExpiry
  | ret (flips : List StackWord)
  | dataSent
  | transferResetEnd
  | resetPinRelease
  deriving DecidableEq, Repr

end Sys2Proof
end

