-- ==== Sys2Proof/WellFormed.lean ====
section
/-! DEFINITION. Which commands have the shape the table's rows give them. No meaning depends on it: every command, well formed
or not, has one. -/

namespace Sys2Proof

/-- The registers whose write has a row of its own (11.7): the command register, the flag and mask registers, F0 to F7, the
direction and enable of each port, LAYERS and SCRUB_EN. -/
def hasOwnRow (index : BitVec 8) : Bool :=
  let i := index.toNat
  i = 0x00 || (0x02 ≤ i && i ≤ 0x05) || (0x09 ≤ i && i ≤ 0x10) || (0x68 ≤ i && i < 0x74 && (i - 0x68) % 3 ≠ 2)
    || i = 0x7B || i = 0xC8

/-- REGISTER_WRITE names any OTHER register; the data of one return is at most a burst, four 64-bit words (R142). -/
def Instr.wellFormed : Instr → Bool
  | .registerWrite index _ => !hasOwnRow index
  | .ret flips => flips.length ≤ 4
  | _ => true

end Sys2Proof
end

