-- ==== Sys2Proof/Decode.lean ====
section
/-! DEFINITION. The rows of spec/opcode_table.json give no bits, so no word of the table spells a command. The words of the
host's command register (R179) are decoded and encoded here. -/

namespace Sys2Proof

/-- No row of the table gives encoding bits: no word spells a command. -/
def decodeTableWord (_nbits _w : Nat) : Option Instr := none

/-- The command a write of `v` to the command register asks for (R179): the code in bits 15 to 11, the channel or port number
in 10 to 8, the size in 7, the slot in 5 to 0. A code that names no command gives none. -/
def decodeCommand (v : Reg) : Option Instr :=
  let number : Fin 8 := ⟨v.toNat / 256 % 8, by omega⟩
  let slot : Fin 64 := ⟨v.toNat % 64, by omega⟩
  let size : Size := if v.toNat / 128 % 2 = 0 then .full else .half
  match v.toNat / 2048 with
  | 1 => some (.submit number slot)
  | 2 => some (.enable number)
  | 3 => some (.disable number)
  | 4 => some (.cancel number)
  | 5 => some (.resume number)
  | 6 => some (.flush number)
  | 7 => some .start
  | 8 => some .recal
  | 9 => some .stop
  | 10 => some .park
  | 11 => some .unpark
  | 12 => some .clearFaults
  | 13 => some .pop
  | 14 => some (.windowRead size)
  | 15 => some (.windowWrite size)
  | 30 => some .transferReset
  | 31 => some .deviceReset
  | _ => none

/-- A command register word from its fields, unused fields zero. -/
def commandWord (code number size slot : Nat) : Reg :=
  BitVec.ofNat 16 (code * 2048 + number * 256 + size * 128 + slot)

/-- The size bit of a command register word. -/
def sizeBit : Size → Nat
  | .full => 0
  | .half => 1

/-- The command register word of a host command (R179); none for a command that does not travel in that register. -/
def encodeCommand : Instr → Option Reg
  | .submit c k => some (commandWord 1 c 0 k)
  | .enable c => some (commandWord 2 c 0 0)
  | .disable c => some (commandWord 3 c 0 0)
  | .cancel c => some (commandWord 4 c 0 0)
  | .resume c => some (commandWord 5 c 0 0)
  | .flush p => some (commandWord 6 p 0 0)
  | .start => some (commandWord 7 0 0 0)
  | .recal => some (commandWord 8 0 0 0)
  | .stop => some (commandWord 9 0 0 0)
  | .park => some (commandWord 10 0 0 0)
  | .unpark => some (commandWord 11 0 0 0)
  | .clearFaults => some (commandWord 12 0 0 0)
  | .pop => some (commandWord 13 0 0 0)
  | .windowRead z => some (commandWord 14 0 (sizeBit z) 0)
  | .windowWrite z => some (commandWord 15 0 (sizeBit z) 0)
  | .transferReset => some (commandWord 30 0 0 0)
  | .deviceReset => some (commandWord 31 0 0 0)
  | _ => none

end Sys2Proof
end

