-- ==== Sys2Proof/Machine/Address.lean ====
section
/-! DEFINITION. The fields of a byte address (R1) and the numbering of banks and clusters (R47). -/

namespace Sys2Proof.Machine

/-- The half field (R1). -/
def halfOf (a : Nat) : Nat := a / 16 % 2

/-- The column burst index (R1). -/
def columnOf (a : Nat) : Nat := a / 32 % 64

/-- The cluster field, within a layer (R1). -/
def clusterOf (a : Nat) : Nat := a / 2048 % 4

/-- The bank field, within a cluster (R1). -/
def bankFieldOf (a : Nat) : Nat := a / 8192 % 4

/-- The row field (R1). -/
def rowOf (a : Nat) : Nat := a / 32768 % 16384

/-- The layer field (R1). -/
def layerOf (a : Nat) : Fin 2 := ⟨a / 536870912 % 2, by omega⟩

/-- The burst address: byte and half taken as zero (R1). -/
def burstOf (a : Nat) : Nat := a / 32 * 32

/-- The number of an address's bank across the stack: 16 × layer + 4 × bank + cluster (R47). -/
def bankOf (a : Nat) : Fin 32 :=
  ⟨16 * (layerOf a).val + 4 * bankFieldOf a + clusterOf a, by
    have := (layerOf a).isLt
    simp only [bankFieldOf, clusterOf]
    omega⟩

/-- The layer of a bank. -/
def layerOfBank (b : Fin 32) : Fin 2 := ⟨b.val / 16, by omega⟩

/-- The cluster record of a bank: 4 × layer + cluster. -/
def clusterOfBank (b : Fin 32) : Fin 8 := ⟨4 * (b.val / 16) + b.val % 4, by omega⟩

/-- The layer of a cluster record. -/
def layerOfCluster (c : Fin 8) : Fin 2 := ⟨c.val / 4, by omega⟩

end Sys2Proof.Machine
end

