-- ==== Sys2Proof/Machine/Params.lean ====
section
/-! DEFINITION. The timing parameters of R4: names, ranges, defaults, in the order of the register map (11.7). -/

namespace Sys2Proof.Machine

/-- The 21 timing parameters (R4). -/
inductive Param where
  | a2c | sht | opm | orc | osn | osf | own | csn | csf | w2rn | w2rf | r2w | r2s | wrs | rnw | lsw | rdl | wdl | ri
  | settle | xpt
  deriving DecidableEq, Repr

/-- The place of a parameter in the register map: 80 + its index (11.7). -/
def Param.index : Param → Fin 21
  | .a2c => 0 | .sht => 1 | .opm => 2 | .orc => 3 | .osn => 4 | .osf => 5 | .own => 6 | .csn => 7 | .csf => 8
  | .w2rn => 9 | .w2rf => 10 | .r2w => 11 | .r2s => 12 | .wrs => 13 | .rnw => 14 | .lsw => 15 | .rdl => 16
  | .wdl => 17 | .ri => 18 | .settle => 19 | .xpt => 20

/-- The lowest value, the highest value and the default of a parameter (R4). -/
structure ParamRow where
  low : Nat
  high : Nat
  default : Nat
  deriving DecidableEq, Repr

/-- The table of R4, in the order of the register map. -/
def paramTable : Vector ParamRow 21 :=
  #v[⟨1, 63, 11⟩, ⟨1, 63, 11⟩, ⟨1, 63, 28⟩, ⟨1, 63, 39⟩, ⟨1, 63, 6⟩, ⟨1, 63, 4⟩, ⟨1, 63, 24⟩,
    ⟨4, 63, 6⟩, ⟨4, 63, 4⟩, ⟨1, 63, 8⟩, ⟨1, 63, 3⟩, ⟨1, 63, 8⟩, ⟨1, 63, 6⟩, ⟨1, 63, 12⟩,
    ⟨16, 1023, 280⟩, ⟨0, 15, 2⟩, ⟨4, 31, 11⟩, ⟨4, 31, 9⟩, ⟨16, 4095, 488⟩, ⟨1, 65535, 200⟩, ⟨16, 1023, 300⟩]

/-- The parameters at a device reset (R4). -/
def defaultParams : Vector Nat 21 := Vector.ofFn fun i => paramTable[i].default

end Sys2Proof.Machine
end

