-- ==== Sys2Proof/Machine/Types.lean ====
section
/-! DEFINITION. The records of the blocks of the M2480, as plain data. INVENTORY.md's State list names the rule of each. -/

namespace Sys2Proof.Machine

/-! ### Accesses and the pending access queue (02) -/

/-- A column command's kind (R23). -/
inductive Kind where
  | read
  | write
  deriving DecidableEq, Repr

/-- The sources of accesses (R23). -/
inductive Source where
  | win
  | ch (c : Fin 5)
  | scrub
  deriving DecidableEq, Repr

/-- Where a write's data is held or a read's data will go (R23). -/
inductive Buffer where
  | wdb (slot : Fin 16)
  | returnSlot (channel : Fin 5) (slot : Fin 8)
  | window
  | scrubRecord
  deriving DecidableEq, Repr

/-- What a source offers: its next access (R27). `address` is a byte address. -/
structure Offer where
  kind : Kind
  size : Size
  address : Nat
  sequence : Nat
  deriving DecidableEq, Repr

/-- An access entry (R23). Its half, burst address and the fields of R1 follow from `address`. `id` is the model's own name
of the entry: a younger entry has a larger one (log 10). -/
structure Entry where
  id : Nat
  source : Source
  kind : Kind
  size : Size
  address : Nat
  buffer : Buffer
  sequence : Nat
  bypass : Nat
  cap : Nat
  overdue : Bool
  predecessors : List Nat
  deriving DecidableEq, Repr

/-- An entry of the issued list (R65). -/
structure Issued where
  source : Source
  kind : Kind
  size : Size
  address : Nat
  buffer : Buffer
  sequence : Nat
  ends : Nat
  deriving DecidableEq, Repr

/-- The admission arbiter's items (R29). -/
structure Arbiter where
  turn : Fin 5
  remaining : Nat
  scrubWait : Nat
  deriving DecidableEq, Repr

/-! ### The scheduler's records (01, 03) -/

/-- The bank states (R8). -/
inductive BankState where
  | closed
  | opening
  | openRow
  | shutting
  deriving DecidableEq, Repr

/-- A bank's idle timer (R63): once expired it stays so until it is loaded or stopped. -/
inductive IdleTimer where
  | stopped
  | running (remaining : Nat)
  | expired
  deriving DecidableEq, Repr

/-- A bank record (R6). A time is `none` while it is cleared. -/
structure Bank where
  state : BankState
  row : Option Nat
  lastOpen : Option Nat
  lastShut : Option Nat
  lastRead : Option Nat
  writeEnd : Option Nat
  autoShut : Bool
  idle : IdleTimer
  deriving DecidableEq, Repr

/-- A cluster record (R7). -/
structure Cluster where
  lastOpen : Option Nat
  lastColumn : Option Nat
  deriving DecidableEq, Repr

/-- A layer record (R7). The renewing timer is `none` while stopped. -/
structure LayerRecord where
  openWindow : List Nat
  lastColumn : Option (Nat × Kind)
  renewing : Option Nat
  deriving DecidableEq, Repr

/-- The data bus record (R7). -/
structure DataBus where
  ends : Option Nat
  last : Option (Fin 2 × Kind)
  deriving DecidableEq, Repr

/-- A DRAM command as it stands on the command bus (R5). A PATTERN READ, PARK and UNPARK name nothing. -/
inductive DramCommand where
  | openRow (bank : Fin 32) (row : Nat)
  | shut (bank : Fin 32)
  | column (kind : Kind) (bank : Fin 32) (column : Nat) (size : Size) (half : Nat) (autoShut : Bool)
  | renew (layer : Fin 2)
  | patternRead
  | park
  | unpark
  deriving DecidableEq, Repr

/-- The row policies (R62). -/
inductive RowPolicy where
  | keep
  | shutAfterUse
  deriving DecidableEq, Repr

/-- The renew controller's items for one layer (R71). The timer is `none` while stopped. -/
structure Renew where
  timer : Option Nat
  debt : Int
  urgent : Bool
  count : BitVec 16
  overrun : Bool
  deriving DecidableEq, Repr

/-! ### The slot store (05) -/

/-- The operations (R88). -/
inductive Op where
  | inbound
  | outbound
  | copy
  | fill
  deriving DecidableEq, Repr

/-- The owner states (R91). -/
inductive Owner where
  | host
  | taken
  | running
  deriving DecidableEq, Repr

/-- The outcomes (R88, R100). -/
inductive Result where
  | none
  | done
  | endedByMark
  | cancelled
  | failedFormat
  | failedRange
  | failedOverlap
  | failedData
  deriving DecidableEq, Repr

/-- A descriptor slot (R88, R91). -/
structure Slot where
  owner : Owner
  holder : Option (Fin 5)
  op : Op
  addr : BitVec 30
  dest : BitVec 30
  units : BitVec 16
  pattern : Word
  link : Option (Fin 64)
  notify : Bool
  stopOnMark : Bool
  markAtEnd : Bool
  tag : BitVec 16
  result : Result
  doneUnits : Nat
  deriving DecidableEq, Repr

/-! ### The transfer channels (06) -/

/-- The channel states (R106). -/
inductive ChannelState where
  | off
  | idle
  | run
  | postWait
  | cancelling
  | halted
  deriving DecidableEq, Repr

/-- The run modes (R106). -/
inductive RunMode where
  | live
  | stopped
  | cancelled
  deriving DecidableEq, Repr

/-- A return slot (R117): `words` are the words not yet delivered, in ascending address order. -/
inductive ReturnSlot where
  | free
  | reserved (sequence : Nat) (size : Size) (half : Nat)
  | filled (sequence : Nat) (size : Size) (half : Nat) (words : List Word)
  deriving DecidableEq, Repr

/-- A completion record without its sequence (R166). -/
structure PendingRecord where
  slot : Fin 64
  channel : Fin 5
  result : Result
  tag : BitVec 16
  doneUnits : Nat
  deriving DecidableEq, Repr

/-- A transfer channel (R106). `offered` is its offered access (R24). `endedByMark` says that a marked word has ended the
range (R116), and `formerSlot` names the slot whose run a transfer reset ended, until the reset ends (R105, R127). -/
structure Channel where
  state : ChannelState
  queue : List (Fin 64)
  current : Option (Fin 64)
  runMode : Option RunMode
  nextAddress : Nat
  unitsLeft : Nat
  nextSequence : Nat
  delivery : Nat
  stopPoint : Option Nat
  returns : Vector ReturnSlot 8
  unitsReached : Nat
  outstanding : Nat
  pendingRecord : Option PendingRecord
  weight : Nat
  boundsBase : Nat
  boundsLimit : Nat
  lastRefused : Option (Fin 64)
  offered : Option Offer
  endedByMark : Bool
  formerSlot : Option (Fin 64)
  deriving DecidableEq, Repr

/-! ### The stream ports (07) -/

/-- A port's direction (R129). -/
inductive Direction where
  | inward
  | outward
  deriving DecidableEq, Repr

/-- A stream port (R129). `data` and `mark` are what an OUT port drives (R135). -/
structure StreamPort where
  direction : Direction
  enable : Bool
  fifo : List (Word × Bool)
  data : Word
  mark : Bool
  deriving DecidableEq, Repr

/-! ### Data protection and patrol scrub (08) -/

/-- The fault record (R146): the first address stands with its source. -/
structure FaultRecord where
  first : Option (Nat × Source)
  more : Bool
  uncorrectable : Nat
  corrected : Nat
  lastCorrected : Option Nat
  deriving DecidableEq, Repr

/-- The scrub's offered access (R148). -/
inductive ScrubOffer where
  | read
  | writeBack
  deriving DecidableEq, Repr

/-- The scrub record (R148): its phase with what is present in it. -/
inductive ScrubRecord where
  | empty
  | reading (burst : Nat) (superseded : Bool)
  | writing (burst : Nat) (held : List Word)
  deriving DecidableEq, Repr

/-- The patrol scrub (R148). The timer is `none` while stopped. -/
structure Scrub where
  enable : Bool
  interval : BitVec 16
  timer : Option Nat
  pointer : Nat
  passCount : BitVec 16
  offered : Option ScrubOffer
  record : ScrubRecord
  deriving DecidableEq, Repr

/-! ### Memory port control (09) -/

/-- The memory port states (R155). -/
inductive PortState where
  | offline
  | starting
  | calibrating
  | online
  | parking
  | parked
  | unparking
  | recalibrating
  | fault
  deriving DecidableEq, Repr

/-- The calibration results (R160). -/
inductive CalResult where
  | none
  | ok
  | fail
  | skipped
  deriving DecidableEq, Repr

/-- A lane's calibration record (R160): tap `t` stands in bit `t` of `passing`. -/
structure Lane where
  passing : BitVec 32
  windowStart : Nat
  windowLength : Nat
  chosenTap : Nat
  captureDelay : Nat
  result : CalResult
  deriving DecidableEq, Repr

/-- The calibration sweep (R159): no sweep, a PATTERN READ requested for a tap, or one in flight with the end of its data. -/
inductive Sweep where
  | none
  | requested (tap : Fin 32)
  | inFlight (tap : Fin 32) (ends : Nat)
  deriving DecidableEq, Repr

/-- Memory port control (R155, R157, R85). A timer is `none` while stopped. -/
structure MemPort where
  state : PortState
  stopPending : Bool
  settle : Option Nat
  xpt : Option Nat
  sweep : Sweep
  lanes : Vector Lane 5
  deriving DecidableEq, Repr

/-- What the stack is known to be in (R21, R22, R158). -/
inductive StackMode where
  | unknown
  | ready
  | parked
  | leaving
  deriving DecidableEq, Repr

/-- The DRAM stack, the partner of the memory port: the words it was sent, by word address (byte address div 8), strictly
rising; a word not listed is unknown (log 5). `epoch` counts the losses of the contents. -/
structure Stack where
  contents : List (Nat × StackWord)
  epoch : Nat
  latencies : Option (Nat × Nat)
  mode : StackMode
  deriving DecidableEq, Repr

/-! ### Completions, interrupts and the host port (10, 11) -/

/-- A completion record (R166). -/
structure Completion where
  sequence : BitVec 16
  slot : Fin 64
  channel : Fin 5
  result : Result
  tag : BitVec 16
  doneUnits : Nat
  deriving DecidableEq, Repr

/-- The completion queue with its coalescing (R167, R170, R171). The timer is `none` while stopped. -/
structure CompletionUnit where
  queue : List Completion
  nextSequence : BitVec 16
  threshold : Nat
  holdoff : Nat
  timer : Option Nat
  latch : Bool
  deriving DecidableEq, Repr

/-- The refusal codes, in the order of 11.7. -/
inductive RefusalCode where
  | none
  | slotBusy
  | slotNotHost
  | queueFull
  | channelState
  | configLocked
  | portState
  | timingInvalid
  | windowBusy
  | cqEmpty
  | resetBusy
  | readOnly
  deriving DecidableEq, Repr

/-- The refusal record (R178). -/
structure RefusalRecord where
  code : RefusalCode
  index : BitVec 8
  deriving DecidableEq, Repr

/-- The window statuses (R181). -/
inductive WindowStatus where
  | idle
  | busy
  | done
  | dataError
  | rangeError
  | notOnline
  | aborted
  deriving DecidableEq, Repr

/-- The memory window (R181). `buffer` holds its 16 registers, two bytes each; `offered` the access of a BUSY command that
has not been admitted. -/
structure Window where
  address : BitVec 30
  buffer : Vector Reg 16
  status : WindowStatus
  offered : Option (Kind × Size)
  deriving DecidableEq, Repr

/-- The captures of the paired items (R177). -/
structure Captures where
  firstFault : BitVec 32
  lastCorrected : BitVec 32
  scrubPointer : BitVec 32
  scrubRecord : BitVec 32
  deriving DecidableEq, Repr

end Sys2Proof.Machine
end

