-- ==== Sys2Proof/Machine/ResetValues.lean ====
section
/-! DEFINITION. The device reset values of the blocks' records. -/

namespace Sys2Proof.Machine

/-- R6. -/
def Bank.reset : Bank :=
  { state := .closed, row := none, lastOpen := none, lastShut := none, lastRead := none, writeEnd := none,
    autoShut := false, idle := .stopped }

/-- R7. -/
def Cluster.reset : Cluster := { lastOpen := none, lastColumn := none }

/-- R7. -/
def LayerRecord.reset : LayerRecord := { openWindow := [], lastColumn := none, renewing := none }

/-- R7. -/
def DataBus.reset : DataBus := { ends := none, last := none }

/-- R71. -/
def Renew.reset : Renew := { timer := none, debt := 0, urgent := false, count := 0, overrun := false }

/-- R90. -/
def Slot.reset : Slot :=
  { owner := .host, holder := none, op := .inbound, addr := 0, dest := 0, units := 0, pattern := 0, link := none,
    notify := false, stopOnMark := false, markAtEnd := false, tag := 0, result := .none, doneUnits := 0 }

/-- R106. -/
def Channel.reset : Channel :=
  { state := .off, queue := [], current := none, runMode := none, nextAddress := 0, unitsLeft := 0, nextSequence := 0,
    delivery := 0, stopPoint := none, returns := Vector.replicate 8 .free, unitsReached := 0, outstanding := 0,
    pendingRecord := none, weight := 2, boundsBase := 0, boundsLimit := 16384, lastRefused := none, offered := none,
    endedByMark := false, formerSlot := none }

/-- R129, R135. -/
def StreamPort.reset : StreamPort := { direction := .inward, enable := false, fifo := [], data := 0, mark := false }

/-- R146. -/
def FaultRecord.reset : FaultRecord :=
  { first := none, more := false, uncorrectable := 0, corrected := 0, lastCorrected := none }

/-- R148. -/
def Scrub.reset : Scrub :=
  { enable := false, interval := 64, timer := none, pointer := 0, passCount := 0, offered := none, record := .empty }

/-- R160. -/
def Lane.reset : Lane :=
  { passing := 0, windowStart := 0, windowLength := 0, chosenTap := 0, captureDelay := 0, result := .none }

/-- R155, R165. -/
def MemPort.reset : MemPort :=
  { state := .offline, stopPending := false, settle := none, xpt := none, sweep := .none,
    lanes := Vector.replicate 5 Lane.reset }

/-- R170, R176. -/
def CompletionUnit.reset : CompletionUnit :=
  { queue := [], nextSequence := 0, threshold := 1, holdoff := 0, timer := none, latch := false }

/-- R182. -/
def Window.reset : Window :=
  { address := 0, buffer := Vector.replicate 16 0, status := .idle, offered := none }

/-- R177. -/
def Captures.reset : Captures := { firstFault := 0, lastCorrected := 0, scrubPointer := 0, scrubRecord := 0 }

/-- R178. -/
def RefusalRecord.reset : RefusalRecord := { code := .none, index := 0 }

/-- R29, R45. -/
def Arbiter.reset : Arbiter := { turn := 0, remaining := 2, scrubWait := 0 }

/-- The stack before anything is known of it (log 1, log 5). -/
def Stack.reset : Stack := { contents := [], epoch := 0, latencies := none, mode := .unknown }

end Sys2Proof.Machine
end

