-- ==== Sys2Proof/Machine/State.lean ====
section
/-! DEFINITION. The state of the M2480 as plain data, the reasons a step can stop, and the state after a device reset. -/

namespace Sys2Proof.Machine

/-- No command stops the part: every outcome of a step is a next state, so there is no fault to name. Safe. -/
inductive Fault where
  deriving DecidableEq, Repr

/-- Why a command is given no meaning. -/
inductive Refusal where
  /-- Raised by an arm of `exec` whose command has no meaning yet. No arm raises it. Safe. -/
  | notModelled (mnemonic : String)
  deriving DecidableEq, Repr

/-- The state of the part, of the stack as the part left it, and of the queue of waiting commands. -/
structure State where
  pending : List Instr
  pinHeld : Bool
  mclk : Nat
  slotTaken : Bool
  commandBus : Option DramCommand
  hostData : Reg
  freeCount : Nat
  stack : Stack
  layers : Nat
  params : Vector Nat 21
  banks : Vector Bank 32
  clusters : Vector Cluster 8
  layerRecords : Vector LayerRecord 2
  dataBus : DataBus
  issued : List Issued
  rowPolicy : RowPolicy
  idleShut : Nat
  paq : List Entry
  nextEntry : Nat
  bypassCap : Nat
  wdb : Vector (Option (List Word)) 16
  arbiter : Arbiter
  renews : Vector Renew 2
  renewEn : Bool
  slots : Vector Slot 64
  channels : Vector Channel 5
  ports : Vector StreamPort 4
  protectEn : Bool
  faults : FaultRecord
  scrub : Scrub
  port : MemPort
  minWin : Nat
  cq : CompletionUnit
  flags : BitVec 26
  mask : BitVec 26
  refusal : RefusalRecord
  slotSelect : Fin 64
  page : Bool
  window : Window
  captures : Captures
  transferReset : Bool
  deriving DecidableEq, Repr

/-- The part right after a device reset with the reset input released: every item at its device reset value, nothing
waiting. Items the manual gives no value for are named in log 1. -/
def State.reset : State :=
  { pending := []
    pinHeld := false
    mclk := 0
    slotTaken := false
    commandBus := none
    hostData := 0
    freeCount := 0
    stack := Stack.reset
    layers := 2
    params := defaultParams
    banks := Vector.replicate 32 Bank.reset
    clusters := Vector.replicate 8 Cluster.reset
    layerRecords := Vector.replicate 2 LayerRecord.reset
    dataBus := DataBus.reset
    issued := []
    rowPolicy := .keep
    idleShut := 32
    paq := []
    nextEntry := 0
    bypassCap := 16
    wdb := Vector.replicate 16 none
    arbiter := Arbiter.reset
    renews := Vector.replicate 2 Renew.reset
    renewEn := true
    slots := Vector.replicate 64 Slot.reset
    channels := Vector.replicate 5 Channel.reset
    ports := Vector.replicate 4 StreamPort.reset
    protectEn := true
    faults := FaultRecord.reset
    scrub := Scrub.reset
    port := MemPort.reset
    minWin := 4
    cq := CompletionUnit.reset
    flags := 0
    mask := 0
    refusal := RefusalRecord.reset
    slotSelect := 0
    page := false
    window := Window.reset
    captures := Captures.reset
    transferReset := false }

end Sys2Proof.Machine
end

