-- ==== Sys2Proof/Machine/Flags.lean ====
section
/-! DEFINITION. The event flags, the enable mask and the interrupt request line (10.4). -/

namespace Sys2Proof.Machine

/-- The 26 event flags (R173). -/
inductive Flag where
  | cqReady
  | channelHalted (c : Fin 5)
  | linkRefused
  | portOverrun (p : Fin 4)
  | portUnderrun (p : Fin 4)
  | dataCorrected
  | dataUncorrectable
  | renewOverrun
  | calFail
  | portOnline
  | portFault
  | parkDone
  | unparkDone
  | windowDone
  | hostRefused
  | tresetDone
  deriving DecidableEq, Repr

/-- A flag's place: its bit of FLAGS_A, or 16 and its bit of FLAGS_B (11.7). -/
def Flag.position : Flag → Nat
  | .cqReady => 0
  | .channelHalted c => 1 + c
  | .linkRefused => 6
  | .portOverrun p => 7 + p
  | .portUnderrun p => 11 + p
  | .dataCorrected => 15
  | .dataUncorrectable => 16
  | .renewOverrun => 17
  | .calFail => 18
  | .portOnline => 19
  | .portFault => 20
  | .parkDone => 21
  | .unparkDone => 22
  | .windowDone => 23
  | .hostRefused => 24
  | .tresetDone => 25

/-- Setting a flag; a flag that is already set stays set (R173). -/
def State.raise (s : State) (f : Flag) : State :=
  { s with flags := s.flags ||| oneBit 26 f.position }

/-- CQ_READY, a level (R172). -/
def State.cqReady (s : State) : Bool :=
  s.cq.threshold ≤ s.cq.queue.length || (s.cq.latch && 1 ≤ s.cq.queue.length)

/-- The 26 flags as they stand, CQ_READY at its level. -/
def State.flagView (s : State) : BitVec 26 := s.flags ||| bit 26 s.cqReady

/-- Whether a flag is set. -/
def State.flag (s : State) (f : Flag) : Bool := s.flagView.getLsbD f.position

/-- The interrupt request line (R175); inactive while the reset pin is held (R177). -/
def State.irqLine (s : State) : Bool := !s.pinHeld && (s.flagView &&& s.mask) != 0#26

/-- The half of 26 positions that a flag or mask register shows (11.7). -/
def flagHalf (x : BitVec 26) : FlagReg → Reg
  | .a => x.setWidth 16
  | .b => (x >>> 16).setWidth 16

/-- The positions that a value written to a flag or mask register names (11.7); the bits that read 0 name none. -/
def flagPlaces (v : Reg) : FlagReg → BitVec 26
  | .a => v.setWidth 26
  | .b => v.setWidth 26 <<< 16

/-- The positions that a flag or mask register covers. -/
def flagCover : FlagReg → BitVec 26 := flagPlaces 0xFFFF#16

/-- The flags that a transfer reset keeps: DATA_UNCORRECTABLE, RENEW_OVERRUN, CAL_FAIL and PORT_FAULT (R176). -/
def keptFlags : BitVec 26 :=
  oneBit 26 (Flag.position .dataUncorrectable) ||| oneBit 26 (Flag.position .renewOverrun)
    ||| oneBit 26 (Flag.position .calFail) ||| oneBit 26 (Flag.position .portFault)

end Sys2Proof.Machine
end

