-- ==== Sys2Proof/Machine/Ops.lean ====
section
/-! DEFINITION. The shared operations over the state's records, refusals, the stack's contents and the device reset. -/

namespace Sys2Proof.Machine

/-- A command that the part takes only while the reset pin is released (R140, R177): held, nothing happens (log 20). Every
command completes. -/
def whenReleased (f : State → State) (s : State) : Host.Outcome State Fault Refusal :=
  .next (if s.pinHeld then s else f s)

/-! ### One record of a table -/

def State.modBank (s : State) (b : Fin 32) (f : Bank → Bank) : State :=
  { s with banks := s.banks.set b (f s.banks[b]) }

def State.modCluster (s : State) (c : Fin 8) (f : Cluster → Cluster) : State :=
  { s with clusters := s.clusters.set c (f s.clusters[c]) }

def State.modLayer (s : State) (l : Fin 2) (f : LayerRecord → LayerRecord) : State :=
  { s with layerRecords := s.layerRecords.set l (f s.layerRecords[l]) }

def State.modRenew (s : State) (l : Fin 2) (f : Renew → Renew) : State :=
  { s with renews := s.renews.set l (f s.renews[l]) }

def State.modSlot (s : State) (k : Fin 64) (f : Slot → Slot) : State :=
  { s with slots := s.slots.set k (f s.slots[k]) }

def State.modChannel (s : State) (c : Fin 5) (f : Channel → Channel) : State :=
  { s with channels := s.channels.set c (f s.channels[c]) }

def State.modPort (s : State) (p : Fin 4) (f : StreamPort → StreamPort) : State :=
  { s with ports := s.ports.set p (f s.ports[p]) }

def State.modScrub (s : State) (f : Scrub → Scrub) : State := { s with scrub := f s.scrub }

def State.modMemPort (s : State) (f : MemPort → MemPort) : State := { s with port := f s.port }

def State.modArbiter (s : State) (f : Arbiter → Arbiter) : State := { s with arbiter := f s.arbiter }

def State.modWindow (s : State) (f : Window → Window) : State := { s with window := f s.window }

def State.modCq (s : State) (f : CompletionUnit → CompletionUnit) : State := { s with cq := f s.cq }

def State.modStack (s : State) (f : Stack → Stack) : State := { s with stack := f s.stack }

/-- A return slot of a channel. -/
def State.setReturn (s : State) (c : Fin 5) (i : Fin 8) (r : ReturnSlot) : State :=
  s.modChannel c fun ch => { ch with returns := ch.returns.set i r }

/-- The lowest index that satisfies a test. -/
def firstFin (n : Nat) (p : Fin n → Bool) : Option (Fin n) := (List.finRange n).find? p

/-- A function applied at each record of a table. -/
def mapVector {α β : Type} {n : Nat} (v : Vector α n) (f : α → β) : Vector β n := Vector.ofFn fun i => f v[i]

/-- The channel a stream port is bound to (07). -/
def channelOfPort (p : Fin 4) : Fin 5 := ⟨p.val, by omega⟩

/-- The stream port a channel is bound to; CH4 has none (06). -/
def portOfChannel (c : Fin 5) : Option (Fin 4) :=
  if h : c.val < 4 then some ⟨c.val, h⟩ else none

/-! ### Sizes, parameters, time -/

/-- The bytes of an access. -/
def bytesOf : Size → Nat
  | .full => 32
  | .half => 16

/-- The 32-bit words of an access (R36). -/
def wordsOf : Size → Nat
  | .full => 8
  | .half => 4

/-- The units of 16 bytes of an access. -/
def unitsOf : Size → Nat
  | .full => 2
  | .half => 1

/-- The mclk an access occupies the data bus (R15). -/
def busTimeOf : Size → Nat
  | .full => 4
  | .half => 2

/-- A timing parameter. -/
def State.param (s : State) (p : Param) : Nat := s.params[p.index]

/-- The full period of a renew timer (R72). -/
def State.renewPeriod (s : State) : Nat := s.param .ri * 16

/-- "X has passed since t" (R3): a cleared time counts as far in the past. -/
def passed (now : Nat) (t : Option Nat) (x : Nat) : Bool :=
  match t with
  | none => true
  | some u => u + x ≤ now

/-- The fitted capacity in bytes (R2). -/
def State.capacity (s : State) : Nat := s.layers * 536870912

/-- Whether a layer is fitted (R2). -/
def State.fitted (s : State) (l : Fin 2) : Bool := l.val < s.layers

/-! ### Refusals (R178) -/

/-- The index of the command register. -/
def commandRegister : BitVec 8 := 0x00#8

/-- A refused host write changes the refusal record and raises HOST_REFUSED, nothing else (R178). -/
def State.refuse (s : State) (code : RefusalCode) (index : BitVec 8) : State :=
  { s.raise .hostRefused with refusal := { code := code, index := index } }

/-- A host write that RESET_BUSY is tested first for (R178). -/
def State.unlessBusy (s : State) (index : BitVec 8) (f : State → State) : State :=
  if s.transferReset then s.refuse .resetBusy index else f s

/-! ### The stack's contents (R5, R67; log 5) -/

/-- The word listed at a word address, if one is. -/
def readContents : List (Nat × StackWord) → Nat → Option StackWord
  | [], _ => none
  | (a, w) :: rest, k => if a = k then some w else readContents rest k

/-- The contents with a word listed at a word address, in rising order. -/
def writeContents : List (Nat × StackWord) → Nat → StackWord → List (Nat × StackWord)
  | [], k, v => [(k, v)]
  | (a, w) :: rest, k, v =>
    if k < a then (k, v) :: (a, w) :: rest
    else if k = a then (k, v) :: rest
    else (a, w) :: writeContents rest k v

/-- The canonical form: word addresses strictly rising. -/
def contentsWf : List (Nat × StackWord) → Bool
  | [] => true
  | (a, _) :: rest => rest.all (fun c => a < c.1) && contentsWf rest

/-- What the stack holds at a word address: a free value where nothing is listed. -/
def State.stackWord (s : State) (k : Nat) : StackWord :=
  (readContents s.stack.contents k).getD (Config.unknownWord s.stack.epoch k)

/-- The contents are no longer preserved (R8, R19, R87). -/
def State.loseContents (s : State) : State :=
  s.modStack fun m => { m with contents := [], epoch := m.epoch + 1 }

/-! ### The device reset (R183) -/

/-- Every item takes its device reset value. The waiting commands are the senders', and the model's own counters of free
values go on. The stack's mode is unknown after it in every case (R22), also just after a PARK, where R86 says at once unknown
and parked (log 29, DESIGN CHOICE). -/
def deviceReset (s : State) : State :=
  { State.reset with
    pending := s.pending
    freeCount := s.freeCount
    stack := { Stack.reset with epoch := s.stack.epoch + 1 } }

end Sys2Proof.Machine
end

