-- ==== Sys2Proof/Machine/Scrub.lean ====
section
/-! DEFINITION. The patrol scrub: its timer, the step end, the abandonment, SCRUB_EN (8.5 to 8.7). -/

namespace Sys2Proof.Machine

/-- The interval timer loaded with the full interval (R149). -/
def Scrub.load (u : Scrub) : Scrub := { u with timer := some (u.interval.toNat * 256) }

/-- When the interval timer runs (R149). -/
def State.scrubTimerRuns (s : State) : Bool :=
  s.scrub.enable && s.port.state = .online && !s.port.stopPending && s.scrub.record = .empty && s.scrub.offered = none

/-- A scrub step ends: the pointer advances, wrapping at the capacity with the pass count, the record empties, the timer is
loaded (R153). -/
def Scrub.stepEnd (u : Scrub) (capacity : Nat) : Scrub :=
  let wraps := capacity ≤ u.pointer + 32
  { u with
    pointer := if wraps then 0 else u.pointer + 32
    passCount := if wraps then u.passCount + 1 else u.passCount
    record := .empty }.load

/-- The step end, as an event of the part (R153). -/
def scrubStepEnd (s : State) : State := s.modScrub fun u => u.stepEnd s.capacity

/-- An abandonment: the offer is withdrawn, the record empties, the pointer stays, the timer is loaded (R153; log 12). -/
def scrubAbandon (s : State) : State :=
  (s.modScrub fun u => { u with offered := none, record := .empty }.load).modArbiter fun a => { a with scrubWait := 0 }

/-- A write of another source to a burst was admitted (R150). -/
def scrubSees (burst : Nat) (s : State) : State :=
  match s.scrub.record with
  | .empty => s
  | .reading b _ =>
    if b = burst then s.modScrub fun u => { u with record := .reading b true } else s
  | .writing b _ =>
    if b = burst && s.scrub.offered = some .writeBack then
      scrubStepEnd ((s.modScrub fun u => { u with offered := none }).modArbiter fun a => { a with scrubWait := 0 })
    else s

/-- Expiry of the interval timer: a read of the pointer's burst is offered, after the pointer has wrapped if it lies outside
the capacity (R149). -/
def scrubIntervalExpired (s : State) : State :=
  if s.scrub.timer = some 0 && s.scrubTimerRuns then
    s.modScrub fun u =>
      if s.capacity ≤ u.pointer then
        { u with timer := none, offered := some .read, pointer := 0, passCount := u.passCount + 1 }
      else { u with timer := none, offered := some .read }
  else s

/-- The index of SCRUB_EN (11.7). -/
def scrubEnRegister : BitVec 8 := 0xC8#8

/-- A host write to SCRUB_EN (R148, R149, R153). -/
def writeScrubEn (v : Reg) (s : State) : State :=
  s.unlessBusy scrubEnRegister fun s =>
    match v.toNat with
    | 0 =>
      let s1 := s.modScrub fun u => { u with enable := false }
      if s.scrub.enable && s.scrub.offered.isSome then scrubAbandon s1 else s1
    | 1 => if s.scrub.enable then s else s.modScrub fun u => { u with enable := true }.load
    | _ => s.refuse .timingInvalid scrubEnRegister

/-- SCRUB_INTERVAL_EXPIRY. -/
def execScrubIntervalExpiry (s : State) : Host.Outcome State Fault Refusal := whenReleased scrubIntervalExpired s

/-- SCRUB_EN_WRITE. -/
def execScrubEnWrite (v : Reg) (s : State) : Host.Outcome State Fault Refusal := whenReleased (writeScrubEn v) s

end Sys2Proof.Machine
end

