-- ==== Sys2Proof/Machine/Clock.lean ====
section
/-! DEFINITION. What the passing of one mclk does (R3). -/

namespace Sys2Proof.Machine

/-- A running timer falls by one (R63, R71, R72, R171). -/
def fall (t : Option Nat) : Option Nat := t.map fun n => n - 1

/-- An idle timer falls by one while it runs (R63). -/
def IdleTimer.fall : IdleTimer → IdleTimer
  | .running n => .running (n - 1)
  | t => t

/-- One mclk passes (R3): the count advances, a new command slot begins, every running timer falls by one. While the reset
pin is held nothing is counted. -/
def tick (s : State) : State :=
  if s.pinHeld then s
  else
    { s with
      mclk := s.mclk + 1
      slotTaken := false
      banks := mapVector s.banks fun b => { b with idle := b.idle.fall }
      layerRecords := mapVector s.layerRecords fun l => { l with renewing := fall l.renewing }
      renews := mapVector s.renews fun r => { r with timer := fall r.timer }
      port := { s.port with settle := fall s.port.settle, xpt := fall s.port.xpt }
      cq := { s.cq with timer := fall s.cq.timer }
      scrub := if s.scrubTimerRuns then { s.scrub with timer := fall s.scrub.timer } else s.scrub }

end Sys2Proof.Machine
end

