-- ==== Sys2Proof/Machine/RenewControl.lean ====
section
/-! DEFINITION. The renew controller: timers, debt, URGENT, overrun (04). -/

namespace Sys2Proof.Machine

/-- The renew timers of the fitted layers start from the full period (R72). -/
def startRenewTimers (s : State) : State :=
  { s with
    renews := Vector.ofFn fun l : Fin 2 =>
      if s.fitted l then { s.renews[l] with timer := some s.renewPeriod } else s.renews[l] }

/-- Both timers stop (R72). -/
def stopRenewTimers (s : State) : State :=
  { s with renews := mapVector s.renews fun r => { r with timer := none } }

/-- At the entry to OFFLINE or FAULT: timers stopped, debts 0, URGENT no (R87). -/
def dropRenewDebts (s : State) : State :=
  { s with renews := mapVector s.renews fun r => { r with timer := none, debt := 0, urgent := false } }

/-- The debt of a layer at an expiry, and whether it is an overrun (R73). -/
def Renew.expire (r : Renew) (period : Nat) : Renew :=
  if r.debt = 8 then { r with timer := some period, overrun := true }
  else { r with timer := some period, debt := r.debt + 1, urgent := r.urgent || r.debt = 5 }

/-- Expiry of a layer's renew timer (R73). -/
def renewTimerExpired (l : Fin 2) (s : State) : State :=
  if s.renews[l].timer = some 0 then
    let s1 := s.modRenew l fun r => r.expire s.renewPeriod
    if s.renews[l].debt = 8 then s1.raise .renewOverrun else s1
  else s

/-- A RENEW was issued to a layer (R74). -/
def Renew.paid (r : Renew) : Renew :=
  { r with debt := r.debt - 1, count := r.count + 1, urgent := r.urgent && r.debt ≠ 3 }

/-- The index of LAYERS (11.7). -/
def layersRegister : BitVec 8 := 0x7B#8

/-- Whether the items of R156 may be written: OFFLINE or FAULT. -/
def configOpen (s : State) : Bool := s.port.state = .offline || s.port.state = .fault

/-- A host write to LAYERS (R2, R156): a layer it leaves unfitted takes its device reset values in the renew controller. R97 says
that LAYERS cannot change while a descriptor runs, and R164 lets one be RUNNING in OFFLINE: the write is taken there too, and the
run goes on as it was validated (log 28, DESIGN CHOICE). -/
def writeLayers (v : Reg) (s : State) : State :=
  s.unlessBusy layersRegister fun s =>
    if !configOpen s then s.refuse .configLocked layersRegister
    else
      match v.toNat with
      | 1 => { s with layers := 1 }.modRenew 1 fun _ => Renew.reset
      | 2 => { s with layers := 2 }
      | _ => s.refuse .timingInvalid layersRegister

/-- RENEW_TIMER_EXPIRY. -/
def execRenewTimerExpiry (l : Fin 2) (s : State) : Host.Outcome State Fault Refusal :=
  whenReleased (renewTimerExpired l) s

/-- LAYERS_WRITE. -/
def execLayersWrite (v : Reg) (s : State) : Host.Outcome State Fault Refusal := whenReleased (writeLayers v) s

end Sys2Proof.Machine
end

