-- ==== Sys2Proof/Machine/Window.lean ====
section
/-! DEFINITION. The memory window (11.5). -/

namespace Sys2Proof.Machine

/-- A window command ends with a status and raises WINDOW_DONE (R182). -/
def endWindow (status : WindowStatus) (s : State) : State :=
  (s.modWindow fun w => { w with status := status, offered := none }).raise .windowDone

/-- The address test of R181. -/
def windowAddressBad (s : State) (z : Size) : Bool :=
  s.window.address.toNat % bytesOf z ≠ 0 || s.capacity < s.window.address.toNat + bytesOf z

/-- WINDOW READ and WINDOW WRITE: the cases of R181 in their order. -/
def windowCommand (k : Kind) (z : Size) (s : State) : State :=
  if s.transferReset then s.refuse .resetBusy commandRegister
  else if s.window.status = .busy then s.refuse .windowBusy commandRegister
  else if windowAddressBad s z then endWindow .rangeError s
  else if s.port.state ≠ .online || s.port.stopPending then endWindow .notOnline s
  else s.modWindow fun w => { w with status := .busy, offered := some (k, z) }

/-- The 32-bit word `i` of the buffer: two registers, the lower address in the low half (11.5, R36). -/
def windowWord (w : Window) (i : Fin 8) : Word :=
  w.buffer[2 * i.val + 1] ++ w.buffer[2 * i.val]

/-- The words a window WRITE moves at its admission: the burst, or the addressed half (R36). -/
def windowWords (w : Window) (z : Size) : List Word :=
  let all := (List.finRange 8).map (windowWord w)
  match z with
  | .full => all
  | .half => (all.drop (4 * halfOf w.address.toNat)).take 4

/-- The buffer with words placed from word `first` on (R182). -/
def fillWindow (b : Vector Reg 16) (first : Nat) (words : List Word) : Vector Reg 16 :=
  Vector.ofFn fun i =>
    if first ≤ i.val / 2 then
      match words[i.val / 2 - first]? with
      | some w => if i.val % 2 = 0 then w.setWidth 16 else (w >>> 16).setWidth 16
      | none => b[i]
    else b[i]

/-- WINDOW_READ. -/
def execWindowRead (z : Size) (s : State) : Host.Outcome State Fault Refusal := whenReleased (windowCommand .read z) s

/-- WINDOW_WRITE. -/
def execWindowWrite (z : Size) (s : State) : Host.Outcome State Fault Refusal := whenReleased (windowCommand .write z) s

end Sys2Proof.Machine
end

