-- ==== Sys2Proof/Machine/PortControl.lean ====
section
/-! DEFINITION. Memory port control: START, the calibration sweep, RECAL, STOP, the taking of PARK and UNPARK (09, 4.7). -/

namespace Sys2Proof.Machine

/-! ### Entries to OFFLINE and FAULT -/

/-- What both entries do to the other blocks: timers and debts (R87), the scrub step (R153), the stack's contents (R155). -/
def leaveService (s : State) : State := (scrubAbandon (dropRenewDebts s)).loseContents

/-- A window command still offered ends NOT_ONLINE (R164, R181). -/
def endOfferedWindow (s : State) : State :=
  if s.window.offered.isSome then endWindow .notOnline s else s

/-- Entry to OFFLINE (R87, R153, R164). -/
def enterOffline (s : State) : State :=
  (endOfferedWindow (leaveService s)).modMemPort fun m => { m with state := .offline, stopPending := false }

/-- Entry to FAULT (R161). -/
def enterFault (s : State) : State :=
  ((leaveService s).modMemPort fun m => { m with state := .fault }).raise .portFault

/-! ### The calibration sweep (9.3) -/

/-- The calibrated lanes: 0 to 3, and lane 4 while PROTECT_EN is on (R159). -/
def calibrated (s : State) (i : Fin 5) : Bool := i.val < 4 || s.protectEn

/-- A lane at the start of a sweep (R159): calibrated, or SKIPPED. -/
def Lane.begin (swept : Bool) (l : Lane) : Lane :=
  if swept then { l with passing := 0, result := .none, captureDelay := 0 }
  else { l with passing := 0, result := .skipped, windowStart := 0, windowLength := 0 }

/-- A sweep starts: the records are cleared, tap 0 is set and its PATTERN READ requested (R159). -/
def beginSweep (s : State) : State :=
  s.modMemPort fun m =>
    { m with
      sweep := .requested 0
      lanes := Vector.ofFn fun i => (m.lanes[i]).begin (calibrated s i) }

/-- Whether every captured beat of a lane equals the pattern's (R159). -/
def laneMatches (b : CapturedBeats) (i : Fin 5) : Bool :=
  if h : i.val < 4 then (b.data[i.val]).toList.all (fun x => x = 0) else b.check.toList.all fun x => x = 0

/-- A matching tap joins the passing taps (R159). -/
def Lane.compare (matched : Bool) (tap : Nat) (l : Lane) : Lane :=
  if matched then { l with passing := l.passing ||| oneBit 32 tap } else l

/-- One tap of the search for the longest run: the run that ends here, and the best start and length so far (R160). -/
def runStep (passing : BitVec 32) (acc : Nat × Nat × Nat) (tap : Nat) : Nat × Nat × Nat :=
  if passing.getLsbD tap then
    let run := acc.1 + 1
    if acc.2.2 < run then (run, tap + 1 - run, run) else (run, acc.2)
  else (0, acc.2)

/-- The first of the longest runs of passing taps: start and length, 0 and 0 if no tap passed (R160). -/
def longestRun (passing : BitVec 32) : Nat × Nat := ((List.range 32).foldl (runStep passing) (0, 0, 0)).2

/-- A calibrated lane's record at the end of a sweep (R160). -/
def Lane.form (minWin : Nat) (l : Lane) : Lane :=
  let (start, length) := longestRun l.passing
  let ok := minWin ≤ length
  let chosen := if ok then start + (length - 1) / 2 else l.chosenTap
  { l with
    windowStart := start, windowLength := length, chosenTap := chosen, captureDelay := chosen
    result := if ok then .ok else .fail }

/-- The records are formed and no sweep runs (R160). -/
def formRecords (s : State) : State :=
  s.modMemPort fun m =>
    { m with
      sweep := .none
      lanes := Vector.ofFn fun i => if calibrated s i then (m.lanes[i]).form s.minWin else m.lanes[i] }

/-- Whether a calibrated lane has failed. -/
def anyLaneFailed (s : State) : Bool :=
  (List.finRange 5).any fun i => calibrated s i && s.port.lanes[i].result = .fail

/-- The end of a sweep and its outcome (R160, R161, R163). -/
def finishSweep (s : State) : State :=
  let s1 := formRecords s
  match s.port.state with
  | .calibrating =>
    if anyLaneFailed s1 then enterFault s1
    else (s1.modMemPort fun m => { m with state := .online }).raise .portOnline
  | .recalibrating =>
    let s2 := s1.modMemPort fun m => { m with state := .online }
    if anyLaneFailed s1 then s2.raise .calFail else s2
  | _ => s1

/-- The comparison of one step, lane by lane (R159). -/
def compareLanes (b : CapturedBeats) (tap : Nat) (s : State) : State :=
  s.modMemPort fun m =>
    { m with lanes := Vector.ofFn fun i => (m.lanes[i]).compare (calibrated s i && laneMatches b i) tap }

/-- The next step of a sweep: its tap is set in every calibrated lane and a PATTERN READ requested (R159). -/
def requestTap (tap : Fin 32) (s : State) : State :=
  s.modMemPort fun m =>
    { m with
      sweep := .requested tap
      lanes := Vector.ofFn fun i =>
        if calibrated s i then { m.lanes[i] with captureDelay := tap.val } else m.lanes[i] }

/-- End of a PATTERN READ's data phase (R159). Before that end, nothing (log 3). -/
def patternDataEnded (b : CapturedBeats) (s : State) : State :=
  match s.port.sweep with
  | .inFlight tap ends =>
    if ends ≤ s.mclk then
      if h : tap.val < 31 then requestTap ⟨tap.val + 1, by omega⟩ (compareLanes b tap s)
      else finishSweep (compareLanes b tap s)
    else s
  | _ => s

/-! ### START and the settle time (9.2) -/

/-- The consistency checks of START (R157). -/
def timingConsistent (s : State) : Bool :=
  s.param .opm + s.param .sht ≤ s.param .orc && s.param .a2c ≤ s.param .opm && 4 * s.param .osf ≤ s.param .own
    && 4 * s.param .rnw ≤ s.renewPeriod

/-- START (R157). -/
def start (s : State) : State :=
  s.unlessBusy commandRegister fun s =>
    if !configOpen s then s.refuse .portState commandRegister
    else if !timingConsistent s then s.refuse .timingInvalid commandRegister
    else s.modMemPort fun m => { m with state := .starting, settle := some (s.param .settle * 256) }

/-- The bank table and the cluster, layer and data bus records at the latency setup (R6, R7). -/
def clearRecords (s : State) : State :=
  { s with
    banks := Vector.replicate 32 Bank.reset
    clusters := Vector.replicate 8 Cluster.reset
    layerRecords := Vector.replicate 2 LayerRecord.reset
    dataBus := DataBus.reset }

/-- Expiry of the settle timer: the four steps of R158. -/
def settleExpired (s : State) : State :=
  if s.port.state = .starting && s.port.settle = some 0 then
    let s1 := s.modStack fun m => { m with latencies := some (s.param .rdl, s.param .wdl), mode := .ready }
    let s2 := beginSweep (clearRecords s1)
    startRenewTimers (s2.modMemPort fun m => { m with state := .calibrating, settle := none })
  else s

/-! ### RECAL, STOP, PARK, UNPARK -/

/-- Every bank of each fitted layer is CLOSED and none is SHUTTING (R162). -/
def banksClosed (s : State) : Bool :=
  (List.finRange 32).all fun b => !s.fitted (layerOfBank b) || s.banks[b].state = .closed

/-- What the step after a drain waits for: the PAQ empty, the banks CLOSED, the issued list empty, the data bus free
(R162, R164). -/
def drainSettled (s : State) : Bool :=
  s.paq.isEmpty && banksClosed s && s.issued.isEmpty && passed s.mclk s.dataBus.ends 0

/-- ONLINE with no stop pending. -/
def inService (s : State) : Bool := s.port.state = .online && !s.port.stopPending

/-- RECAL (R162). -/
def recal (s : State) : State :=
  s.unlessBusy commandRegister fun s =>
    if inService s then s.modMemPort fun m => { m with state := .recalibrating }
    else s.refuse .portState commandRegister

/-- The sweep of a RECAL begins (R162). -/
def recalSweepStarted (s : State) : State :=
  if s.port.state = .recalibrating && s.port.sweep = .none && drainSettled s then beginSweep s else s

/-- STOP (R164). -/
def stop (s : State) : State :=
  s.unlessBusy commandRegister fun s =>
    if s.port.state = .fault then enterOffline s
    else if inService s then s.modMemPort fun m => { m with stopPending := true }
    else s.refuse .portState commandRegister

/-- A pending STOP comes to its end (R164). -/
def stopCompleted (s : State) : State :=
  if s.port.state = .online && s.port.stopPending && drainSettled s then enterOffline s else s

/-- PARK (R82, R164). -/
def park (s : State) : State :=
  s.unlessBusy commandRegister fun s =>
    if inService s then s.modMemPort fun m => { m with state := .parking }
    else s.refuse .portState commandRegister

/-- The slot of this mclk has carried a DRAM command (R5). -/
def slotCarried (s : State) : Bool := s.slotTaken && s.commandBus.isSome

/-- Issue of the UNPARK DRAM command: the port UNPARKING, XPT running; the command takes the slot of its mclk (R5, R22). -/
def issueUnpark (s : State) : State :=
  let s1 := s.modMemPort fun m => { m with state := .unparking, xpt := some (s.param .xpt) }
  { s1.modStack fun m => { m with mode := .leaving } with commandBus := some .unpark, slotTaken := true }

/-- UNPARK (R22, R85): the DRAM command issues at the taking. Where the slot of the mclk has carried the PARK, R5 allows no
second DRAM command in it: the host command is then taken in the next mclk. That wait is the model's choice (log 23). -/
def unpark (s : State) : State :=
  s.unlessBusy commandRegister fun s =>
    if s.port.state = .parked then issueUnpark (if slotCarried s then tick s else s)
    else s.refuse .portState commandRegister

/-- Expiry of XPT (R85). -/
def xptExpired (s : State) : State :=
  if s.port.state = .unparking && s.port.xpt = some 0 then
    let s1 : State :=
      { s with
        renews := Vector.ofFn fun l : Fin 2 =>
          if s.fitted l then { s.renews[l] with debt := 0, urgent := false } else s.renews[l] }
    let s2 := startRenewTimers s1
    let s3 := (s2.modMemPort fun m => { m with state := .online, xpt := none }).raise .unparkDone
    s3.modStack fun m => { m with mode := .ready }
  else s

/-- START. -/
def execStart (s : State) : Host.Outcome State Fault Refusal := whenReleased start s

/-- RECAL. -/
def execRecal (s : State) : Host.Outcome State Fault Refusal := whenReleased recal s

/-- STOP. -/
def execStop (s : State) : Host.Outcome State Fault Refusal := whenReleased stop s

/-- PARK. -/
def execPark (s : State) : Host.Outcome State Fault Refusal := whenReleased park s

/-- UNPARK. -/
def execUnpark (s : State) : Host.Outcome State Fault Refusal := whenReleased unpark s

/-- SETTLE_EXPIRY. -/
def execSettleExpiry (s : State) : Host.Outcome State Fault Refusal := whenReleased settleExpired s

/-- PATTERN_READ_DATA_END. -/
def execPatternReadDataEnd (b : CapturedBeats) (s : State) : Host.Outcome State Fault Refusal :=
  whenReleased (patternDataEnded b) s

/-- RECAL_SWEEP_START. -/
def execRecalSweepStart (s : State) : Host.Outcome State Fault Refusal := whenReleased recalSweepStarted s

/-- STOP_COMPLETE. -/
def execStopComplete (s : State) : Host.Outcome State Fault Refusal := whenReleased stopCompleted s

/-- XPT_EXPIRY. -/
def execXptExpiry (s : State) : Host.Outcome State Fault Refusal := whenReleased xptExpired s

end Sys2Proof.Machine
end

