-- ==== Sys2Proof/Machine/Completion.lean ====
section
/-! DEFINITION. The completion queue, coalescing and the posting of records (10.1 to 10.3). -/

namespace Sys2Proof.Machine

/-- The completion queue holds 32 records (R167). -/
def cqPlaces : Nat := 32

/-- The holdoff timer's load: none while HOLDOFF is 0 (R170, R171). -/
def CompletionUnit.load (u : CompletionUnit) : Option Nat := if u.holdoff = 0 then none else some (u.holdoff * 64)

/-- Posting a record at the tail: it takes the next sequence number (R166), and a posting into an empty queue starts the
holdoff timer (R171). -/
def CompletionUnit.post (u : CompletionUnit) (r : PendingRecord) : CompletionUnit :=
  { u with
    queue := u.queue ++
      [{ sequence := u.nextSequence, slot := r.slot, channel := r.channel, result := r.result, tag := r.tag,
         doneUnits := r.doneUnits }]
    nextSequence := u.nextSequence + 1
    timer := if u.queue = [] && u.holdoff ≠ 0 then u.load else u.timer }

/-- The holdoff timer and latch at a POP, on the queue as it stands after the POP (R171). -/
def CompletionUnit.afterPop (u : CompletionUnit) : CompletionUnit :=
  if u.queue = [] then { u with timer := none, latch := false } else { u with timer := u.load }

/-- Whether a record can be posted now (R168). -/
def State.cqHasPlace (s : State) : Bool := s.cq.queue.length < cqPlaces

/-- The waiting poster that a freed place goes to: the lowest channel number (R168). -/
def State.waitingPoster (s : State) : Option (Fin 5) :=
  firstFin 5 fun c => s.channels[c].pendingRecord.isSome

/-- Expiry of the holdoff timer (R171). -/
def holdoffExpired (s : State) : State :=
  if s.cq.timer = some 0 then s.modCq fun u => { u with timer := none, latch := true } else s

/-- HOLDOFF_EXPIRY. -/
def execHoldoffExpiry (s : State) : Host.Outcome State Fault Refusal := whenReleased holdoffExpired s

end Sys2Proof.Machine
end

