-- ==== Sys2Proof/Machine/Channels.lean ====
section
/-! DEFINITION. The transfer channels: validation, the splitter, the four flows' offers, starting and ending a run, and the
channel commands (05, 06). -/

namespace Sys2Proof.Machine

/-! ### Start validation (5.4) -/

/-- Test 1 of R97: the operations a channel allows. -/
def opAllowed (s : State) (c : Fin 5) (op : Op) : Bool :=
  match portOfChannel c, op with
  | some p, .inbound => s.ports[p].direction = .inward
  | some p, .outbound => s.ports[p].direction = .outward
  | none, .copy => true
  | none, .fill => true
  | _, _ => false

/-- The bytes of a descriptor's range (R88). -/
def Slot.length (d : Slot) : Nat := 16 * d.units.toNat

/-- A range inside the fitted capacity and a channel's bounds (R98). -/
def rangeInside (s : State) (c : Fin 5) (start length : Nat) : Bool :=
  start + length ≤ s.capacity && s.channels[c].boundsBase * 65536 ≤ start
    && start + length ≤ s.channels[c].boundsLimit * 65536

/-- Two ranges overlap when each starts below the other's end (R98). -/
def rangesOverlap (a b length : Nat) : Bool := a < b + length && b < a + length

/-- Start validation: the first failing test's result, or none (R97). -/
def validate (s : State) (c : Fin 5) (d : Slot) : Option Result :=
  if !opAllowed s c d.op then some .failedFormat
  else if d.units.toNat < 1 then some .failedFormat
  else if d.addr.toNat % 16 ≠ 0 || (d.op = .copy && d.dest.toNat % 16 ≠ 0) then some .failedFormat
  else if !(rangeInside s c d.addr.toNat d.length
      && (d.op ≠ .copy || rangeInside s c d.dest.toNat d.length)) then some .failedRange
  else if d.op = .copy && rangesOverlap d.addr.toNat d.dest.toNat d.length then some .failedOverlap
  else none

/-! ### The splitter (R113) -/

/-- A COPY whose ADDR and DEST differ modulo 32 is cut into half bursts only (R113). -/
def halvesOnly (d : Slot) : Bool := d.op = .copy && d.addr.toNat % 32 ≠ d.dest.toNat % 32

/-- The splitter's next access: size and address (R113). -/
def splitterNext (ch : Channel) (d : Slot) : Option (Size × Nat) :=
  if ch.unitsLeft = 0 then none
  else if halvesOnly d || ch.nextAddress % 32 ≠ 0 || ch.unitsLeft < 2 then some (.half, ch.nextAddress)
  else some (.full, ch.nextAddress)

/-- The address of the access with a sequence number, counted from the start of a range (R113). -/
def accessAddress (d : Slot) (sequence : Nat) : Nat :=
  if halvesOnly d then d.addr.toNat + 16 * sequence
  else if d.addr.toNat % 32 = 0 || sequence = 0 then d.addr.toNat + 32 * sequence
  else d.addr.toNat + 16 + 32 * (sequence - 1)

/-- Where a COPY writes the data of the read with a sequence number: DEST + (read address − ADDR) (R113). -/
def copyAddress (d : Slot) (sequence : Nat) : Nat := d.dest.toNat + (accessAddress d sequence - d.addr.toNat)

/-! ### The return buffer (R117) -/

/-- The lowest-numbered FREE return slot (R117). -/
def freeReturn (ch : Channel) : Option (Fin 8) := firstFin 8 fun i => ch.returns[i] = .free

/-- Whether a return slot is FILLED with a sequence number's data. -/
def isFilledWith (sequence : Nat) : ReturnSlot → Bool
  | .filled q _ _ _ => q = sequence
  | _ => false

/-- The FILLED return slot at the delivery pointer (R118, R119). -/
def headReturn (ch : Channel) : Option (Fin 8) := firstFin 8 fun i => isFilledWith ch.delivery ch.returns[i]

/-- A FILLED slot becomes FREE; others stay (R125, R127). -/
def freeIfFilled : ReturnSlot → ReturnSlot
  | .filled _ _ _ _ => .free
  | r => r

/-- A FILLED slot at or above the stop point becomes FREE (R123). -/
def freeIfFrom (stop : Nat) : ReturnSlot → ReturnSlot
  | .filled q z h ws => if stop ≤ q then .free else .filled q z h ws
  | r => r

/-- The return slots that are not FREE (R117). -/
def returnsInUse (ch : Channel) : Nat := (ch.returns.toList.filter fun r => r ≠ .free).length

/-! ### Offers (R114, R115, R116, R118, R119, R120) -/

/-- The words an INBOUND access takes: up to the first marked word of the access under STOP_ON_MARK (R116), else as many as it
covers (R115). The second part says whether a mark ended it. None while the FIFO is short. -/
def inboundTake (stopOnMark : Bool) (n : Nat) (fifo : List (Word × Bool)) : Option (Nat × Bool) :=
  match (if stopOnMark then (fifo.take n).findIdx? (fun w => w.2) else none) with
  | some i => some (i + 1, true)
  | none => if n ≤ fifo.length then some (n, false) else none

/-- The FIFO an INBOUND run on a channel takes from. -/
def channelFifo (s : State) (c : Fin 5) : List (Word × Bool) :=
  match portOfChannel c with
  | some p => s.ports[p].fifo
  | none => []

/-- The write of the FILLED slot at the delivery pointer (R119). -/
def copyWrite (ch : Channel) (d : Slot) : Option Offer :=
  match headReturn ch with
  | some i =>
    match ch.returns[i] with
    | .filled q z _ _ => some { kind := .write, size := z, address := copyAddress d q, sequence := q }
    | _ => none
  | none => none

/-- The splitter's next access as an offer of a kind. -/
def splitterOffer (ch : Channel) (d : Slot) (k : Kind) : Option Offer :=
  (splitterNext ch d).map fun (z, a) => { kind := k, size := z, address := a, sequence := ch.nextSequence }

/-- A read is offered while a return slot is FREE (R114). -/
def readOffer (ch : Channel) (d : Slot) : Option Offer :=
  if (freeReturn ch).isSome then splitterOffer ch d .read else none

/-- The next access of a channel in RUN, if its flow has one ready. -/
def nextOffer (s : State) (c : Fin 5) : Option Offer :=
  let ch := s.channels[c]
  match ch.current, ch.runMode with
  | some k, some .live =>
    let d := s.slots[k]
    match d.op with
    | .inbound =>
      (splitterOffer ch d .write).filter fun o =>
        (inboundTake d.stopOnMark (wordsOf o.size) (channelFifo s c)).isSome
    | .outbound => readOffer ch d
    | .copy => (copyWrite ch d).or (readOffer ch d)
    | .fill => splitterOffer ch d .write
  | some k, some .stopped => if s.slots[k].op = .copy then copyWrite ch s.slots[k] else none
  | _, _ => none

/-- A channel in RUN that has no offered access chooses its next one (R114, R119). -/
def offerNext (c : Fin 5) (s : State) : State :=
  if s.channels[c].state = .run && s.channels[c].offered.isNone then
    s.modChannel c fun ch => { ch with offered := nextOffer s c }
  else s

/-! ### Starting a run (R96, R112) -/

/-- Step 3 of R121: the slot returns to HOST, the current slot becomes none. -/
def closeRun (c : Fin 5) (k : Fin 64) (s : State) : State :=
  (s.modSlot k fun d => { d with owner := .host, holder := none }).modChannel c fun ch =>
    { ch with current := none, runMode := none, stopPoint := none, pendingRecord := none, offered := none }

/-- Entry to HALTED (R124). -/
def haltChannel (c : Fin 5) (s : State) : State :=
  (s.modChannel c fun ch => { ch with state := .halted }).raise (.channelHalted c)

/-- The record of the run of a slot, after its RESULT and DONE_UNITS were written (R166). -/
def recordOf (s : State) (c : Fin 5) (k : Fin 64) : PendingRecord :=
  { slot := k, channel := c, result := s.slots[k].result, tag := s.slots[k].tag, doneUnits := s.slots[k].doneUnits }

/-- Step 2 of R121 while the queue is full: the record becomes pending (R122, R125). -/
def awaitPosting (c : Fin 5) (k : Fin 64) (s : State) : State :=
  s.modChannel c fun ch =>
    { ch with
      pendingRecord := some (recordOf s c k)
      offered := none
      state := if ch.state = .cancelling then .cancelling else .postWait }

/-- Step 2 of R121 while the queue has a place. -/
def postRecord (c : Fin 5) (k : Fin 64) (s : State) : State := s.modCq fun u => u.post (recordOf s c k)

/-- Step 1 of R121: RESULT and DONE_UNITS are written into the slot. -/
def putOutcome (c : Fin 5) (k : Fin 64) (r : Result) (s : State) : State :=
  s.modSlot k fun d => { d with result := r, doneUnits := s.channels[c].unitsReached }

/-- Steps 1 and 2 of R121, with the steps that follow once a record is posted or none is wanted. -/
def writeOutcome (c : Fin 5) (k : Fin 64) (r : Result) (next : State → State) (s : State) : State :=
  if s.slots[k].notify then
    if s.cqHasPlace then next (postRecord c k (putOutcome c k r s)) else awaitPosting c k (putOutcome c k r s)
  else next (putOutcome c k r s)

/-- The set-up of a run at a slot: the slot is RUNNING with its outcome cleared, the channel in RUN with its run items set
(R96, R112). -/
def setUpRun (c : Fin 5) (k : Fin 64) (s : State) : State :=
  (s.modSlot k fun d => { d with owner := .running, holder := some c, result := .none, doneUnits := 0 }).modChannel c
    fun ch =>
      { ch with
        state := .run, current := some k, runMode := some .live, nextAddress := s.slots[k].addr.toNat
        unitsLeft := s.slots[k].units.toNat, nextSequence := 0, delivery := 0, stopPoint := none, unitsReached := 0
        outstanding := 0, pendingRecord := none, offered := none, endedByMark := false }

/-- A run starts at a slot, and start validation follows in the same event (R96, R97, R99, R112). A failed validation ends
the run at once. -/
def beginRun (c : Fin 5) (k : Fin 64) (s : State) : State :=
  match validate s c s.slots[k] with
  | some r => writeOutcome c k r (fun u => haltChannel c (closeRun c k u)) (setUpRun c k s)
  | none => offerNext c (setUpRun c k s)

/-- A channel that comes to IDLE takes the head of its queue at once, if there is one (R96, R107). -/
def takeNext (c : Fin 5) (s : State) : State :=
  match s.channels[c].queue with
  | [] => s.modChannel c fun ch => { ch with state := .idle }
  | k :: rest => beginRun c k (s.modChannel c fun ch => { ch with queue := rest })

/-- A refused link follow (R103). -/
def refuseLink (c : Fin 5) (l : Fin 64) (s : State) : State :=
  (s.modChannel c fun ch => { ch with lastRefused := some l }).raise .linkRefused

/-- After DONE or ENDED_BY_MARK: the link is followed, or the channel turns to its queue (R102, R103). -/
def followLink (c : Fin 5) (link : Option (Fin 64)) (s : State) : State :=
  match link with
  | none => takeNext c s
  | some l => if s.slots[l].owner = .host then beginRun c l s else takeNext c (refuseLink c l s)

/-- Whether a result is one of the FAILED results (R124). -/
def isFailed : Result → Bool
  | .failedFormat | .failedRange | .failedOverlap | .failedData => true
  | _ => false

/-- Steps 3 and 4 of R121, once any record has been posted. A channel in CANCELLING goes to IDLE (R125, R126). -/
def finishRun (c : Fin 5) (k : Fin 64) (s : State) : State :=
  if s.channels[c].state = .cancelling then takeNext c (closeRun c k s)
  else if isFailed s.slots[k].result then haltChannel c (closeRun c k s)
  else followLink c s.slots[k].link (closeRun c k s)

/-- The end of the current run with a result (R121). -/
def endRun (c : Fin 5) (r : Result) (s : State) : State :=
  match s.channels[c].current with
  | none => s
  | some k => writeOutcome c k r (finishRun c k) s

/-! ### The end conditions (6.5 to 6.10) -/

/-- The completion of a LIVE run, as its flow gives it (R115, R118, R119, R120). -/
def liveComplete (ch : Channel) (op : Op) : Bool :=
  ch.unitsLeft = 0 &&
    match op with
    | .inbound => ch.outstanding = 0
    | .fill => ch.outstanding = 0
    | .copy => ch.outstanding = 0 && ch.delivery = ch.nextSequence
    | .outbound => ch.delivery = ch.nextSequence

/-- The result with which a channel's run ends now, if its end condition holds. -/
def endResult (s : State) (c : Fin 5) : Option Result :=
  let ch := s.channels[c]
  match ch.current, ch.runMode with
  | some k, some .live =>
    if ch.state = .run && liveComplete ch s.slots[k].op then some (if ch.endedByMark then .endedByMark else .done)
    else none
  | some _, some .stopped =>
    if ch.state = .run && ch.outstanding = 0 && ch.stopPoint = some ch.delivery then some .failedData else none
  | some _, some .cancelled =>
    if ch.state = .cancelling && ch.pendingRecord.isNone && ch.outstanding = 0 then some .cancelled else none
  | _, _ => none

/-- After an event of a channel's run: the run ends if its end condition holds, or the next access is chosen. -/
def settleChannel (c : Fin 5) (s : State) : State :=
  match endResult s c with
  | some r => endRun c r s
  | none => offerNext c s

/-! ### The channel commands (5.3, 6.2) -/

/-- A command that names a channel: RESET_BUSY is tested first, then the number (R178, 6.2; log 11). -/
def onChannel (n : Fin 8) (f : Fin 5 → State → State) (s : State) : State :=
  s.unlessBusy commandRegister fun s =>
    if h : n.val < 5 then f ⟨n.val, h⟩ s else s.refuse .timingInvalid commandRegister

/-- A slot joins a channel's queue: it is TAKEN with its outcome cleared (R94). -/
def appendSlot (c : Fin 5) (k : Fin 64) (s : State) : State :=
  (s.modSlot k fun d => { d with owner := .taken, holder := some c, result := .none, doneUnits := 0 }).modChannel c
    fun ch => { ch with queue := ch.queue ++ [k] }

/-- SUBMIT of a slot to a channel: the tests of R94 in their order, then the slot joins the queue, and a channel in IDLE takes
it at once. -/
def submitTo (c : Fin 5) (k : Fin 64) (s : State) : State :=
  if s.transferReset then s.refuse .resetBusy commandRegister
  else if s.slots[k].owner ≠ .host then s.refuse .slotNotHost commandRegister
  else if 8 ≤ s.channels[c].queue.length then s.refuse .queueFull commandRegister
  else if s.channels[c].state = .idle then takeNext c (appendSlot c k s)
  else appendSlot c k s

/-- SUBMIT (R94): the number is the first test. -/
def submit (n : Fin 8) (k : Fin 64) (s : State) : State :=
  if h : n.val < 5 then submitTo ⟨n.val, h⟩ k s else s.refuse .timingInvalid commandRegister

/-- ENABLE (R108). -/
def enableChannel (c : Fin 5) (s : State) : State :=
  if s.channels[c].state = .off then takeNext c s else s.refuse .channelState commandRegister

/-- DISABLE (R108). -/
def disableChannel (c : Fin 5) (s : State) : State :=
  if s.channels[c].state = .idle then s.modChannel c fun ch => { ch with state := .off }
  else s.refuse .channelState commandRegister

/-- RESUME (R109). -/
def resumeChannel (c : Fin 5) (s : State) : State :=
  if s.channels[c].state = .halted then takeNext c s else s.refuse .channelState commandRegister

/-- A queued slot returns to HOST with RESULT CANCELLED (R105). -/
def cancelQueuedSlot (s : State) (k : Fin 64) : State :=
  s.modSlot k fun d => { d with owner := .host, holder := none, result := .cancelled, doneUnits := 0 }

/-- Every slot of a channel's queue returns to HOST, and the queue empties (R105). -/
def emptyQueue (c : Fin 5) (s : State) : State :=
  (s.channels[c].queue.foldl cancelQueuedSlot s).modChannel c fun ch => { ch with queue := [] }

/-- A CANCEL of a run (R125): the offer is withdrawn, no further access is made, every FILLED slot becomes FREE, and the run
ends at once if nothing is outstanding. -/
def cancelRun (c : Fin 5) (s : State) : State :=
  settleChannel c <| s.modChannel c fun ch =>
    { ch with
      state := .cancelling, runMode := some .cancelled, offered := none, unitsLeft := 0, stopPoint := none
      returns := mapVector ch.returns freeIfFilled }

/-- CANCEL (R110, R125, R126). -/
def cancelChannel (c : Fin 5) (s : State) : State :=
  match s.channels[c].state with
  | .cancelling => s.refuse .channelState commandRegister
  | .off => emptyQueue c s
  | .idle => emptyQueue c s
  | .halted => (emptyQueue c s).modChannel c fun ch => { ch with state := .idle }
  | .postWait => (emptyQueue c s).modChannel c fun ch => { ch with state := .cancelling }
  | .run => cancelRun c (emptyQueue c s)

/-- The completion unit at a POP whose freed place goes to a waiting poster: the rest of the queue, and the poster's record
(R169). -/
def CompletionUnit.popTo (u : CompletionUnit) (rest : List Completion) (r : PendingRecord) : CompletionUnit :=
  ({ u with queue := rest }.post r).afterPop

/-- The completion unit at a POP that no poster waits for (R169). -/
def CompletionUnit.popOff (u : CompletionUnit) (rest : List Completion) : CompletionUnit :=
  { u with queue := rest }.afterPop

/-- POP (R169): the head leaves, the freed place goes to the lowest-numbered waiting poster, then the holdoff timer and latch
act, and the poster goes on as R121 gives. -/
def popRecord (s : State) : State :=
  match s.cq.queue with
  | [] => s.refuse .cqEmpty commandRegister
  | _ :: rest =>
    match s.waitingPoster with
    | none => s.modCq fun u => u.popOff rest
    | some c =>
      match s.channels[c].pendingRecord, s.channels[c].current with
      | some r, some k => finishRun c k (s.modCq fun u => u.popTo rest r)
      | _, _ => s.modCq fun u => u.popOff rest

/-- SUBMIT. -/
def execSubmit (n : Fin 8) (k : Fin 64) (s : State) : Host.Outcome State Fault Refusal := whenReleased (submit n k) s

/-- ENABLE. -/
def execEnable (n : Fin 8) (s : State) : Host.Outcome State Fault Refusal := whenReleased (onChannel n enableChannel) s

/-- DISABLE. -/
def execDisable (n : Fin 8) (s : State) : Host.Outcome State Fault Refusal := whenReleased (onChannel n disableChannel) s

/-- CANCEL. -/
def execCancel (n : Fin 8) (s : State) : Host.Outcome State Fault Refusal := whenReleased (onChannel n cancelChannel) s

/-- RESUME. -/
def execResume (n : Fin 8) (s : State) : Host.Outcome State Fault Refusal := whenReleased (onChannel n resumeChannel) s

/-- POP (R169; RESET_BUSY first). -/
def pop (s : State) : State := s.unlessBusy commandRegister popRecord

/-- POP. -/
def execPop (s : State) : Host.Outcome State Fault Refusal := whenReleased pop s

end Sys2Proof.Machine
end

