-- ==== Sys2Proof/Machine/Ports.lean ====
section
/-! DEFINITION. The stream ports: strobes, word placement, enable, direction and FLUSH (07). -/

namespace Sys2Proof.Machine

/-- The ready output (R132). -/
def State.portReady (s : State) (p : Fin 4) : Bool :=
  !s.pinHeld && s.ports[p].enable &&
    match s.ports[p].direction with
    | .inward => s.ports[p].fifo.length < 32
    | .outward => 1 ≤ s.ports[p].fifo.length

/-- An arrival at an IN port (R133). The bound channel may find its next access ready (R115, R116). -/
def arrive (p : Fin 4) (word : Word) (mark : Bool) (s : State) : State :=
  if s.ports[p].enable && s.ports[p].fifo.length < 32 then
    offerNext (channelOfPort p) <| s.modPort p fun q => { q with fifo := q.fifo ++ [(word, mark)] }
  else s.raise (.portOverrun p)

/-- A take at an OUT port (R135). -/
def take (p : Fin 4) (s : State) : State :=
  match s.ports[p].enable, s.ports[p].fifo with
  | true, (w, m) :: rest => s.modPort p fun q => { q with fifo := rest, data := w, mark := m }
  | _, _ => s.raise (.portUnderrun p)

/-- A strobe is judged under the direction that stands when it is taken (R138). -/
def strobeWith (p : Fin 4) (word : Word) (mark : Bool) (s : State) : State :=
  match s.ports[p].direction with
  | .inward => arrive p word mark s
  | .outward => take p s

/-- PORT_TAKE: a strobe for which the peripheral names no word. On a port that has turned IN it samples a free value
(R138; log 9). -/
def strobe (p : Fin 4) (s : State) : State :=
  match s.ports[p].direction with
  | .inward =>
    arrive p (Config.undrivenWord s.freeCount) (Config.undrivenMark s.freeCount)
      { s with freeCount := s.freeCount + 1 }
  | .outward => take p s

/-- The mark of a placed word: the last word of the range under MARK_AT_END, in a LIVE run (R118, R123). `rest` are the words
of the slot behind it. -/
def placementMark (ch : Channel) (d : Slot) (rest : List Word) : Bool :=
  d.markAtEnd && ch.runMode = some .live && rest.isEmpty && ch.unitsLeft = 0 && ch.delivery + 1 = ch.nextSequence

/-- A channel after a word of its head slot `i` was placed (R118). -/
def afterPlacement (i : Fin 8) (q : Nat) (z : Size) (h : Nat) (rest : List Word) (ch : Channel) : Channel :=
  { ch with
    returns := ch.returns.set i (if rest.isEmpty then .free else .filled q z h rest)
    delivery := if rest.isEmpty then ch.delivery + 1 else ch.delivery
    unitsReached := if rest.length % 4 = 0 then ch.unitsReached + 1 else ch.unitsReached }

/-- The word an OUTBOUND channel places next: its slot, sequence, size, half, the word and the words behind it. -/
def nextPlacement (s : State) (p : Fin 4) : Option (Fin 64 × Fin 8 × Nat × Size × Nat × Word × List Word) :=
  let ch := s.channels[channelOfPort p]
  if ch.state = .run && s.ports[p].fifo.length < 32 then
    match ch.current, headReturn ch with
    | some k, some i =>
      match s.slots[k].op, ch.returns[i] with
      | .outbound, .filled q z h (w :: rest) => some (k, i, q, z, h, w, rest)
      | _, _ => none
    | _, _ => none
  else none

/-- WORD_PLACEMENT (R118, R136). Where nothing can be placed, nothing is (log 3). -/
def placeWord (p : Fin 4) (s : State) : State :=
  match nextPlacement s p with
  | none => s
  | some (k, i, q, z, h, w, rest) =>
    let c := channelOfPort p
    let m := placementMark s.channels[c] s.slots[k] rest
    settleChannel c <| (s.modPort p fun r => { r with fifo := r.fifo ++ [(w, m)] }).modChannel c
      (afterPlacement i q z h rest)

/-- The index of a port's direction register (11.7). -/
def directionRegister (p : Fin 4) : BitVec 8 := BitVec.ofNat 8 (0x68 + 3 * p)

/-- The index of a port's enable register (11.7). -/
def enableRegister (p : Fin 4) : BitVec 8 := BitVec.ofNat 8 (0x69 + 3 * p)

/-- A change of direction empties the FIFO; a port turned OUT drives zero and no mark (R135, R138). -/
def StreamPort.turn (q : StreamPort) (d : Direction) : StreamPort :=
  if q.direction = d then q
  else
    match d with
    | .inward => { q with direction := .inward, fifo := [] }
    | .outward => { q with direction := .outward, fifo := [], data := 0, mark := false }

/-- A host write to a port's direction (R111, R130, R138). -/
def writeDirection (p : Fin 4) (v : Reg) (s : State) : State :=
  s.unlessBusy (directionRegister p) fun s =>
    if s.channels[channelOfPort p].state ≠ .off then s.refuse .channelState (directionRegister p)
    else
      match v.toNat with
      | 0 => s.modPort p fun q => q.turn .inward
      | 1 => s.modPort p fun q => q.turn .outward
      | _ => s.refuse .timingInvalid (directionRegister p)

/-- A host write to a port's enable (R130, R137). -/
def writeEnable (p : Fin 4) (v : Reg) (s : State) : State :=
  s.unlessBusy (enableRegister p) fun s =>
    match v.toNat with
    | 0 => s.modPort p fun q => { q with enable := false }
    | 1 => s.modPort p fun q => { q with enable := true }
    | _ => s.refuse .timingInvalid (enableRegister p)

/-- The channel states in which FLUSH is taken (R139). -/
def flushable : ChannelState → Bool
  | .off | .idle | .halted => true
  | .run | .postWait | .cancelling => false

/-- FLUSH (R139). -/
def flush (n : Fin 8) (s : State) : State :=
  s.unlessBusy commandRegister fun s =>
    if h : n.val < 4 then
      if flushable s.channels[channelOfPort ⟨n.val, h⟩].state then s.modPort ⟨n.val, h⟩ fun q => { q with fifo := [] }
      else s.refuse .channelState commandRegister
    else s.refuse .timingInvalid commandRegister

/-- PORT_ARRIVAL. -/
def execPortArrival (p : Fin 4) (word : Word) (mark : Bool) (s : State) : Host.Outcome State Fault Refusal :=
  whenReleased (strobeWith p word mark) s

/-- PORT_TAKE. -/
def execPortTake (p : Fin 4) (s : State) : Host.Outcome State Fault Refusal := whenReleased (strobe p) s

/-- WORD_PLACEMENT. -/
def execWordPlacement (p : Fin 4) (s : State) : Host.Outcome State Fault Refusal := whenReleased (placeWord p) s

/-- PORT_DIRECTION_WRITE. -/
def execPortDirectionWrite (p : Fin 4) (v : Reg) (s : State) : Host.Outcome State Fault Refusal :=
  whenReleased (writeDirection p v) s

/-- PORT_ENABLE_WRITE. -/
def execPortEnableWrite (p : Fin 4) (v : Reg) (s : State) : Host.Outcome State Fault Refusal :=
  whenReleased (writeEnable p v) s

/-- FLUSH. -/
def execFlush (n : Fin 8) (s : State) : Host.Outcome State Fault Refusal := whenReleased (flush n) s

end Sys2Proof.Machine
end

