-- ==== Sys2Proof/Machine/Admission.lean ====
section
/-! DEFINITION. The admission arbiter and the admission event (02). -/

namespace Sys2Proof.Machine

/-- The pending access queue holds 24 entries (R25). -/
def paqPlaces : Nat := 24

/-- Admission is open (R28). -/
def admissionOpen (s : State) : Bool := inService s && !s.transferReset

/-- The lowest-numbered free WDB slot (R35). -/
def freeWdb (s : State) : Option (Fin 16) := firstFin 16 fun i => s.wdb[i].isNone

/-- A write finds a WDB slot (R28). -/
def writeRoom (s : State) : Bool := (freeWdb s).isSome

/-- Whether the channel's offered access finds its buffer (R28). -/
def channelReady (s : State) (c : Fin 5) : Bool :=
  match s.channels[c].offered with
  | some o =>
    match o.kind with
    | .read => (freeReturn s.channels[c]).isSome
    | .write => writeRoom s
  | none => false

/-- Whether the window's offered access finds its buffer (R28). -/
def windowReady (s : State) : Bool :=
  match s.window.offered with
  | some (.read, _) => true
  | some (.write, _) => writeRoom s
  | none => false

/-- Whether the scrub's offered access finds its buffer (R28). -/
def scrubReady (s : State) : Bool :=
  match s.scrub.offered with
  | some .read => true
  | some .writeBack => writeRoom s
  | none => false

/-- A scrub access is promoted at a wait count of 64 (R33). -/
def promotedAt : Nat := 64

/-- The channels in cyclic order from one on (R31). -/
def cyclicFrom (c : Fin 5) : List (Fin 5) := [c, c + 1, c + 2, c + 3, c + 4]

/-- The channel that the round robin serves (R31). -/
def turnChannel (s : State) : Option (Fin 5) := (cyclicFrom s.arbiter.turn).find? fun c => channelReady s c

/-- The source that the arbiter serves (R30), admission open and an entry free (R28). -/
def nextSource (s : State) : Option Source :=
  if !(admissionOpen s && s.paq.length < paqPlaces) then none
  else if windowReady s then some .win
  else if scrubReady s && s.arbiter.scrubWait = promotedAt then some .scrub
  else
    match turnChannel s with
    | some c => some (.ch c)
    | none => if scrubReady s then some .scrub else none

/-- The turn after an admission of channel `c` (R31). -/
def turnAfter (s : State) (c : Fin 5) (a : Arbiter) : Arbiter :=
  let left := (if c = a.turn then a.remaining else s.channels[c].weight) - 1
  if left = 0 then { a with turn := c + 1, remaining := s.channels[c + 1].weight }
  else { a with turn := c, remaining := left }

/-- The scrub's wait count at an admission of another source (R33). -/
def countScrubWait (s : State) : State :=
  if s.scrub.offered.isSome then s.modArbiter fun a => { a with scrubWait := min promotedAt (a.scrubWait + 1) } else s

/-- The predecessor list of an access to a burst (R37). -/
def predecessorsOf (paq : List Entry) (k : Kind) (address : Nat) : List Nat :=
  (paq.filter fun e => burstOf e.address = burstOf address && (e.kind = .write || k = .write)).map fun e => e.id

/-- The entry is filled and joins the tail (R34, steps 1 and 4). -/
def enqueue (src : Source) (o : Offer) (b : Buffer) (s : State) : State :=
  { s with
    paq := s.paq ++
      [{ id := s.nextEntry, source := src, kind := o.kind, size := o.size, address := o.address, buffer := b,
         sequence := o.sequence, bypass := 0, cap := s.bypassCap, overdue := false,
         predecessors := predecessorsOf s.paq o.kind o.address }]
    nextEntry := s.nextEntry + 1 }

/-- The admission of a write with its words: it takes the lowest free WDB slot, and the scrub sees its burst unless it is the
scrub's own (R34, R35). -/
def enqueueWrite (src : Source) (o : Offer) (words : List Word) (s : State) : State :=
  match freeWdb s with
  | none => s
  | some i =>
    let s1 := enqueue src o (.wdb i) { s with wdb := s.wdb.set i (some words) }
    if src = .scrub then s1 else scrubSees (burstOf o.address) s1

/-- The splitter advances past an access that was admitted (R114). -/
def Channel.advance (ch : Channel) (o : Offer) : Channel :=
  { ch with
    nextAddress := ch.nextAddress + bytesOf o.size
    unitsLeft := ch.unitsLeft - unitsOf o.size
    nextSequence := ch.nextSequence + 1
    outstanding := ch.outstanding + 1
    offered := none }

/-- The words an INBOUND access writes: padded with zero words to the end of the half burst that holds the mark (R116). -/
def padWords (words : List Word) : List Word := words ++ List.replicate ((4 - words.length % 4) % 4) 0#32

/-- An access's words again as an access of the size they fill: a FULL access whose mark falls in its first four words becomes
a HALF access of its lower half, and other accesses fill up to their size (R116). -/
def fillAccess (o : Offer) (words : List Word) : Offer × List Word :=
  let padded := padWords words
  if o.size = .full && padded.length = 4 then ({ o with size := .half }, padded)
  else (o, padded)

/-- Admission of a channel's read (R34, R117). -/
def admitRead (c : Fin 5) (o : Offer) (s : State) : State :=
  match freeReturn s.channels[c] with
  | none => s
  | some i =>
    enqueue (.ch c) o (.returnSlot c i) <| s.modChannel c fun ch =>
      { ch.advance o with returns := ch.returns.set i (.reserved o.sequence o.size (halfOf o.address)) }

/-- Admission of an INBOUND write (R115, R116, R134). -/
def admitInbound (c : Fin 5) (o : Offer) (d : Slot) (s : State) : State :=
  match portOfChannel c, inboundTake d.stopOnMark (wordsOf o.size) (channelFifo s c) with
  | some p, some (n, ended) =>
    let (o', words) := fillAccess o ((s.ports[p].fifo.take n).map fun w => w.1)
    let s1 := s.modPort p fun q => { q with fifo := q.fifo.drop n }
    enqueueWrite (.ch c) o' words <| s1.modChannel c fun ch =>
      if ended then { ch.advance o' with unitsLeft := 0, endedByMark := true } else ch.advance o'
  | _, _ => s

/-- Admission of a COPY write: the return slot at the delivery pointer becomes FREE (R119). -/
def admitCopyWrite (c : Fin 5) (o : Offer) (s : State) : State :=
  match headReturn s.channels[c] with
  | none => s
  | some i =>
    match s.channels[c].returns[i] with
    | .filled _ _ _ words =>
      enqueueWrite (.ch c) o words <| s.modChannel c fun ch =>
        { ch with
          returns := ch.returns.set i .free, delivery := ch.delivery + 1, outstanding := ch.outstanding + 1
          offered := none }
    | _ => s

/-- Admission of a channel's offered access, and the choice of its next one (R34, R114). -/
def admitChannel (c : Fin 5) (s : State) : State :=
  match s.channels[c].offered, s.channels[c].current with
  | some o, some k =>
    let d := s.slots[k]
    offerNext c <|
      match o.kind, d.op with
      | .read, _ => admitRead c o s
      | .write, .inbound => admitInbound c o d s
      | .write, .copy => admitCopyWrite c o s
      | .write, _ =>
        enqueueWrite (.ch c) o (List.replicate (wordsOf o.size) d.pattern) (s.modChannel c fun ch => ch.advance o)
  | _, _ => s

/-- Admission of the window's access (R34, R36, R181). -/
def admitWindow (s : State) : State :=
  match s.window.offered with
  | none => s
  | some (k, z) =>
    let o : Offer := { kind := k, size := z, address := s.window.address.toNat, sequence := 0 }
    let s1 := s.modWindow fun w => { w with offered := none }
    match k with
    | .read => enqueue .win o .window s1
    | .write => enqueueWrite .win o (windowWords s.window z) s1

/-- Admission of the scrub's access (R33, R34, R150, R152). -/
def admitScrub (s : State) : State :=
  let s1 := s.modArbiter fun a => { a with scrubWait := 0 }
  match s.scrub.offered, s.scrub.record with
  | some .read, _ =>
    let b := s.scrub.pointer
    enqueue .scrub { kind := .read, size := .full, address := b, sequence := 0 } .scrubRecord <|
      s1.modScrub fun u => { u with offered := none, record := .reading b false }
  | some .writeBack, .writing b held =>
    enqueueWrite .scrub { kind := .write, size := .full, address := b, sequence := 0 } held <|
      s1.modScrub fun u => { u with offered := none }
  | _, _ => s

/-- The admission of a source's access. -/
def admitFrom (src : Source) (s : State) : State :=
  match src with
  | .win => admitWindow (countScrubWait s)
  | .scrub => admitScrub s
  | .ch c => admitChannel c ((countScrubWait s).modArbiter (turnAfter s c))

/-- ADMISSION: one admissible access is admitted (R30). Where none is, none is admitted (log 3). -/
def admitNext (s : State) : State :=
  match nextSource s with
  | some src => admitFrom src s
  | none => s

/-- ADMISSION. -/
def execAdmission (s : State) : Host.Outcome State Fault Refusal := whenReleased admitNext s

end Sys2Proof.Machine
end

