-- ==== Sys2Proof/Machine/Protection.lean ====
section
/-! DEFINITION. Data protection: check codes, classing, the fault record (8.1 to 8.4), and the stack's words. -/

namespace Sys2Proof.Machine

/-- The classes of a word and of a return (R143). -/
inductive WordClass where
  | clean
  | corrected
  | uncorrectable
  deriving DecidableEq, Repr

/-- The worse of two classes (R143). -/
def worse : WordClass → WordClass → WordClass
  | .uncorrectable, _ => .uncorrectable
  | _, .uncorrectable => .uncorrectable
  | .corrected, _ => .corrected
  | _, .corrected => .corrected
  | .clean, .clean => .clean

/-- The data bit whose repair makes a word agree with its code, if one does (R143). -/
def wrongDataBit (code : BitVec 64 → BitVec 8) (d : BitVec 64) (c : BitVec 8) : Option Nat :=
  (List.range 64).find? fun i => code (d ^^^ oneBit 64 i) = c

/-- The class of a word and the data handed on (R143), under a check code. -/
def classWord (code : BitVec 64 → BitVec 8) (d : BitVec 64) (c : BitVec 8) : WordClass × BitVec 64 :=
  if code d = c then (.clean, d)
  else
    match wrongDataBit code d c with
    | some i => (.corrected, d ^^^ oneBit 64 i)
    | none => if weight (code d ^^^ c) = 1 then (.corrected, d) else (.uncorrectable, d)

/-- The two 32-bit words of a 64-bit word, the first beat in the low half (log 6). -/
def splitWord (d : BitVec 64) : List Word := [d.setWidth 32, (d >>> 32).setWidth 32]

/-- The 64-bit words of a payload: two 32-bit words each (R5). -/
def joinWords : List Word → List (BitVec 64)
  | w :: v :: rest => (v ++ w) :: joinWords rest
  | _ => []

/-- Data and check bits of a stored word. -/
def dataOf (w : StackWord) : BitVec 64 := w.setWidth 64

/-- The check bits of a stored word. -/
def codeOf (w : StackWord) : BitVec 8 := (w >>> 64).setWidth 8

/-- A data word as it goes out on the lanes: with its check code, or zero while PROTECT_EN is off (R141, R142). -/
def protectedWord (s : State) (d : BitVec 64) : StackWord :=
  (if s.protectEn then Config.checkCode.code d else 0#8) ++ d

/-- The word address of the first 64-bit word of an access. -/
def wordAddress (a : Nat) : Nat := a / 8

/-- The number of 64-bit words of an access (R142). -/
def stackWordsOf : Size → Nat
  | .full => 4
  | .half => 2

/-- The 64-bit words that the stack drives for a READ: what it holds, with the bits in which it differs (log 5). -/
def returnedWords (s : State) (a : Nat) (z : Size) (flips : List StackWord) : List StackWord :=
  (List.range (stackWordsOf z)).map fun i => s.stackWord (wordAddress a + i) ^^^ flips.getD i 0#72

/-- Classing a return: the worst class of its words, and the data handed on (R143). An UNCORRECTABLE return hands on every
word as read, those classed CORRECTED too, as R145 and R182 say of the return (log 27). With PROTECT_EN off it is CLEAN. -/
def classReturn (s : State) (words : List StackWord) : WordClass × List Word :=
  let asRead := words.flatMap fun w => splitWord (dataOf w)
  if s.protectEn then
    let judged := words.map fun w => classWord Config.checkCode.code (dataOf w) (codeOf w)
    let worst := judged.foldl (fun k j => worse k j.1) .clean
    (worst, if worst = .uncorrectable then asRead else judged.flatMap fun j => splitWord j.2)
  else (.clean, asRead)

/-- The fault record at a return (R144, R146). -/
def FaultRecord.note (f : FaultRecord) (k : WordClass) (burst : Nat) (src : Source) : FaultRecord :=
  match k with
  | .clean => f
  | .corrected => { f with corrected := min 65535 (f.corrected + 1), lastCorrected := some burst }
  | .uncorrectable =>
    { f with
      first := some (f.first.getD (burst, src))
      more := f.more || f.first.isSome
      uncorrectable := min 255 (f.uncorrectable + 1) }

/-- The recording of a return's class (R144). -/
def recordClass (k : WordClass) (burst : Nat) (src : Source) (s : State) : State :=
  let s1 := { s with faults := s.faults.note k burst src }
  match k with
  | .clean => s1
  | .corrected => s1.raise .dataCorrected
  | .uncorrectable => s1.raise .dataUncorrectable

/-- CLEAR FAULTS (R147). -/
def clearFaults (s : State) : State :=
  s.unlessBusy commandRegister fun s => { s with faults := FaultRecord.reset }

/-- The stack takes the words of a WRITE (R5, R67). -/
def storeWords (a : Nat) (words : List Word) (s : State) : State :=
  s.modStack fun m =>
    { m with
      contents := (((joinWords words).map (protectedWord s)).zipIdx (wordAddress a)).foldl
        (fun c w => writeContents c w.2 w.1) m.contents }

/-- CLEAR_FAULTS. -/
def execClearFaults (s : State) : Host.Outcome State Fault Refusal := whenReleased clearFaults s

end Sys2Proof.Machine
end

