-- ==== Sys2Proof/Machine/Returns.lean ====
section
/-! DEFINITION. The ends of data phases, RETURN and DATA_SENT, and the end of a transfer reset that they bring about. -/

namespace Sys2Proof.Machine

/-! ### The end of a transfer reset (R184) -/

/-- A channel at the end of a transfer reset (R106, R127). -/
def Channel.afterTransferReset (ch : Channel) : Channel :=
  { ch with
    nextAddress := 0, unitsLeft := 0, nextSequence := 0, delivery := 0, stopPoint := none
    returns := Vector.replicate 8 .free, unitsReached := 0, outstanding := 0, endedByMark := false
    formerSlot := none }

/-- The transfer reset ends once the issued list is empty (R184). -/
def endTransferReset (s : State) : State :=
  if s.transferReset && s.issued.isEmpty then
    { s with transferReset := false, channels := mapVector s.channels Channel.afterTransferReset }.raise .tresetDone
  else s

/-! ### The destinations of a return (R66, R145) -/

/-- Whether a channel takes the data of a return into its slot (R117). -/
def keepsReturn (ch : Channel) (sequence : Nat) : Bool :=
  match ch.state, ch.runMode with
  | .run, some .live => true
  | .run, some .stopped => match ch.stopPoint with
    | some p => sequence < p
    | none => false
  | _, _ => false

/-- The stop point is set or lowered (R123). -/
def Channel.stopAt (ch : Channel) (sequence : Nat) : Channel :=
  let p := match ch.stopPoint with
    | some q => min q sequence
    | none => sequence
  { ch with
    runMode := some .stopped
    stopPoint := some p
    returns := mapVector ch.returns (freeIfFrom p)
    offered := ch.offered.filter fun o => o.kind = .write }

/-- Whether an UNCORRECTABLE return stops a run: LIVE or STOPPED in RUN (R123, R145). -/
def stopsRun (ch : Channel) : Bool :=
  ch.state = .run && (ch.runMode = some .live || ch.runMode = some .stopped)

/-- A return to a channel's return slot (R117, R123, R125, R127). -/
def channelReturn (c : Fin 5) (i : Fin 8) (e : Issued) (k : WordClass) (words : List Word) (s : State) : State :=
  let ch := s.channels[c]
  let ch1 := { ch with outstanding := ch.outstanding - 1 }
  let ch2 :=
    if k = .uncorrectable then
      let freed := { ch1 with returns := ch1.returns.set i .free }
      if stopsRun ch then freed.stopAt e.sequence else freed
    else if keepsReturn ch e.sequence then
      { ch1 with returns := ch1.returns.set i (.filled e.sequence e.size (halfOf e.address) words) }
    else { ch1 with returns := ch1.returns.set i .free }
  settleChannel c (s.modChannel c fun _ => ch2)

/-- A return to the window buffer (R145, R182). -/
def windowReturn (e : Issued) (k : WordClass) (words : List Word) (s : State) : State :=
  if s.transferReset then endWindow .aborted s
  else
    let first := match e.size with
      | .full => 0
      | .half => 4 * halfOf e.address
    endWindow (if k = .uncorrectable then .dataError else .done)
      (s.modWindow fun w => { w with buffer := fillWindow w.buffer first words })

/-- A return to the scrub record (R151). -/
def scrubReturn (k : WordClass) (words : List Word) (s : State) : State :=
  match s.scrub.record with
  | .reading b superseded =>
    if k = .corrected && !superseded && s.scrub.enable then
      s.modScrub fun u => { u with record := .writing b words, offered := some .writeBack }
    else scrubStepEnd s
  | _ => s

/-- A return reaches its destination (R145). -/
def deliver (e : Issued) (k : WordClass) (words : List Word) (s : State) : State :=
  match e.buffer with
  | .returnSlot c i => channelReturn c i e k words s
  | .window => windowReturn e k words s
  | .scrubRecord => scrubReturn k words s
  | .wdb _ => s

/-- The head of the issued list, if it is of a kind and its data phase has ended. -/
def endedHead (s : State) (k : Kind) : Option (Issued × List Issued) :=
  match s.issued with
  | e :: rest => if e.kind = k && e.ends ≤ s.mclk then some (e, rest) else none
  | [] => none

/-- RETURN (R66, R144). Where no READ's data phase has ended at the head, there is no return (log 3). -/
def takeReturn (flips : List StackWord) (s : State) : State :=
  match endedHead s .read with
  | none => s
  | some (e, rest) =>
    let (k, words) := classReturn s (returnedWords s e.address e.size flips)
    endTransferReset <| deliver e k words <| recordClass k (burstOf e.address) e.source { s with issued := rest }

/-! ### Data sent (R67) -/

/-- The words a WDB slot holds. -/
def wdbWords (s : State) : Buffer → List Word
  | .wdb i => (s.wdb[i]).getD []
  | _ => []

/-- A WDB slot becomes free (R35). -/
def releaseWdb (b : Buffer) (s : State) : State :=
  match b with
  | .wdb i => { s with wdb := s.wdb.set i none }
  | _ => s

/-- A channel's write has reached the stack: the units count, and under a transfer reset the former slot's DONE_UNITS follows
(R105, R127). -/
def channelSent (c : Fin 5) (z : Size) (s : State) : State :=
  let s1 := s.modChannel c fun ch =>
    { ch with outstanding := ch.outstanding - 1, unitsReached := ch.unitsReached + unitsOf z }
  match s.channels[c].formerSlot with
  | some k => s1.modSlot k fun d => { d with doneUnits := s1.channels[c].unitsReached }
  | none => settleChannel c s1

/-- The source is told that its write was sent (R67, R152, R182). -/
def tellSent (e : Issued) (s : State) : State :=
  match e.source with
  | .ch c => channelSent c e.size s
  | .win => endWindow .done s
  | .scrub => match s.scrub.record with
    | .writing _ _ => scrubStepEnd s
    | _ => s

/-- DATA_SENT (R67). Where no WRITE's data phase has ended at the head, nothing was sent (log 3). -/
def takeSent (s : State) : State :=
  match endedHead s .write with
  | none => s
  | some (e, rest) =>
    let s1 := storeWords e.address (wdbWords s e.buffer) { s with issued := rest }
    endTransferReset <| tellSent e <| releaseWdb e.buffer s1

/-- RETURN. -/
def execReturn (flips : List StackWord) (s : State) : Host.Outcome State Fault Refusal := whenReleased (takeReturn flips) s

/-- DATA_SENT. -/
def execDataSent (s : State) : Host.Outcome State Fault Refusal := whenReleased takeSent s

/-- TRANSFER_RESET_END. -/
def execTransferResetEnd (s : State) : Host.Outcome State Fault Refusal := whenReleased endTransferReset s

end Sys2Proof.Machine
end

