-- ==== Sys2Proof/Machine/Operands.lean ====
section
/-! DEFINITION. The codes and layouts of the register window (11.7): what a value written names, and what an item reads as. -/

namespace Sys2Proof.Machine

/-! ### What a written value names -/

/-- An operation's code; 4 to 7 name none (11.7). Bits above the field are ignored. -/
def opOfReg (v : Reg) : Option Op :=
  match v.toNat % 8 with
  | 0 => some .inbound
  | 1 => some .outbound
  | 2 => some .copy
  | 3 => some .fill
  | _ => none

/-- A LINK code: a slot, NONE (127), or neither (11.7). -/
def linkOfReg (v : Reg) : Option (Option (Fin 64)) :=
  if h : v.toNat % 128 < 64 then some (some ⟨v.toNat % 128, h⟩)
  else if v.toNat % 128 = 127 then some none
  else none

/-- An on/off item's value (11.7). -/
def onOffOfReg (v : Reg) : Option Bool :=
  match v.toNat with
  | 0 => some false
  | 1 => some true
  | _ => none

/-- A one-bit descriptor field: bit 0, the rest ignored (11.7). -/
def bitOfReg (v : Reg) : Bool := v.toNat % 2 = 1

/-- A wide field with a new low half. -/
def withLow {n : Nat} (x : BitVec n) (v : Reg) : BitVec n := BitVec.ofNat n (x.toNat / 65536 * 65536 + v.toNat)

/-- A wide field with a new high part; bits above the field are ignored. -/
def withHigh {n : Nat} (x : BitVec n) (v : Reg) : BitVec n := BitVec.ofNat n (v.toNat * 65536 + x.toNat % 65536)

/-! ### What an item reads as -/

/-- A number as a register. -/
def reg (n : Nat) : Reg := BitVec.ofNat 16 n

/-- A yes/no item as bit `i`. -/
def regBit (i : Nat) (b : Bool) : Nat := if b then 2 ^ i else 0

/-- A slot number, or 127 for none (11.7). -/
def slotCode : Option (Fin 64) → Nat
  | some k => k
  | none => 127

def opCode : Op → Nat
  | .inbound => 0
  | .outbound => 1
  | .copy => 2
  | .fill => 3

def resultCode : Result → Nat
  | .none => 0
  | .done => 1
  | .endedByMark => 2
  | .cancelled => 3
  | .failedFormat => 4
  | .failedRange => 5
  | .failedOverlap => 6
  | .failedData => 7

def ownerCode : Owner → Nat
  | .host => 0
  | .taken => 1
  | .running => 2

/-- A holder channel, or 7 for none (11.7). -/
def holderCode : Option (Fin 5) → Nat
  | some c => c
  | none => 7

def portStateCode : PortState → Nat
  | .offline => 0
  | .starting => 1
  | .calibrating => 2
  | .online => 3
  | .parking => 4
  | .parked => 5
  | .unparking => 6
  | .recalibrating => 7
  | .fault => 8

def channelStateCode : ChannelState → Nat
  | .off => 0
  | .idle => 1
  | .run => 2
  | .postWait => 3
  | .cancelling => 4
  | .halted => 5

def windowStatusCode : WindowStatus → Nat
  | .idle => 0
  | .busy => 1
  | .done => 2
  | .dataError => 3
  | .rangeError => 4
  | .notOnline => 5
  | .aborted => 6

def calResultCode : CalResult → Nat
  | .none => 0
  | .ok => 1
  | .fail => 2
  | .skipped => 3

def refusalCodeOf : RefusalCode → Nat
  | .none => 0
  | .slotBusy => 1
  | .slotNotHost => 2
  | .queueFull => 3
  | .channelState => 4
  | .configLocked => 5
  | .portState => 6
  | .timingInvalid => 7
  | .windowBusy => 8
  | .cqEmpty => 9
  | .resetBusy => 10
  | .readOnly => 11

/-- The code of a fault's source: 0 WIN, 1 to 5 the channels, 6 SCRUB (11.7). -/
def sourceCode : Source → Nat
  | .win => 0
  | .ch c => 1 + c
  | .scrub => 6

/-- A phase of the scrub record (11.7). -/
def phaseCode : ScrubRecord → Nat
  | .empty => 0
  | .reading _ _ => 1
  | .writing _ _ => 2

/-- The burst address in a scrub record, while it is not EMPTY. -/
def ScrubRecord.burst : ScrubRecord → Option Nat
  | .empty => none
  | .reading b _ => some b
  | .writing b _ => some b

/-- A burst address divided by 32, or a free value while it is absent (log 16). -/
def burstCode (item : Nat) : Option Nat → Nat
  | some a => a / 32
  | none => (Config.absentBurst item).toNat

/-- The sweep tap item (R159). -/
def sweepTap : Sweep → Nat
  | .none => 0
  | .requested t => t
  | .inFlight t _ => t

/-- A debt in five bits, two's complement (11.7). -/
def debtCode (d : Int) : Nat := (BitVec.ofInt 5 d).toNat

end Sys2Proof.Machine
end

