-- ==== Sys2Proof/Machine/Registers.lean ====
section
/-! DEFINITION. What each register of the window reads as (11.7, R177), and the reads that capture a paired item. -/

namespace Sys2Proof.Machine

/-- A field register on page 0 (11.7). -/
def readPage0 (d : Slot) : Nat → Nat
  | 0 => opCode d.op
  | 1 => d.addr.toNat % 65536
  | 2 => d.addr.toNat / 65536
  | 3 => d.units.toNat
  | 4 => slotCode d.link
  | 5 => regBit 0 d.notify
  | 6 => d.tag.toNat
  | 7 => ownerCode d.owner + 16 * holderCode d.holder + 256 * resultCode d.result
  | _ => 0

/-- A field register on page 1 (11.7). -/
def readPage1 (d : Slot) : Nat → Nat
  | 0 => d.dest.toNat % 65536
  | 1 => d.dest.toNat / 65536
  | 2 => d.pattern.toNat % 65536
  | 3 => d.pattern.toNat / 65536
  | 4 => regBit 0 d.stopOnMark
  | 5 => regBit 0 d.markAtEnd
  | 6 => d.doneUnits
  | _ => 0

/-- The head registers; every field reads 0 while the queue is empty (R167, 11.7). -/
def readHead (u : CompletionUnit) (i : Nat) : Nat :=
  match u.queue, i with
  | r :: _, 0 => r.sequence.toNat
  | r :: _, 1 => r.slot + 256 * r.channel + 4096 * resultCode r.result
  | r :: _, 2 => r.tag.toNat
  | r :: _, 3 => r.doneUnits
  | _, _ => 0

/-- A channel's registers (R128, 11.7). -/
def readChannel (ch : Channel) : Nat → Nat
  | 0 => channelStateCode ch.state + 256 * slotCode ch.current
  | 1 => ch.queue.length + 256 * returnsInUse ch
  | 2 => ch.unitsReached
  | 3 => ch.outstanding
  | 4 => slotCode ch.lastRefused
  | 5 => ch.weight
  | 6 => ch.boundsBase
  | 7 => ch.boundsLimit
  | _ => 0

/-- A port's registers (R130, 11.7). -/
def readPort (s : State) (p : Fin 4) : Nat → Nat
  | 0 => regBit 0 (s.ports[p].direction = .outward)
  | 1 => regBit 0 s.ports[p].enable
  | 2 => s.ports[p].fifo.length + regBit 8 (s.portReady p)
  | _ => 0

/-- A layer's renew status; an unfitted layer reads zeros (R81, 11.7). -/
def readRenew (s : State) (l : Fin 2) (i : Nat) : Nat :=
  if !s.fitted l then 0
  else
    match i with
    | 0 =>
      debtCode s.renews[l].debt + regBit 8 s.renews[l].urgent + regBit 9 s.layerRecords[l].renewing.isSome
        + regBit 10 s.renews[l].overrun
    | 1 => s.renews[l].count.toNat
    | _ => 0

/-- A lane's registers (R160, 11.7). -/
def readLane (l : Lane) : Nat → Nat
  | 0 => l.passing.toNat % 65536
  | 1 => l.passing.toNat / 65536
  | 2 => l.windowStart + 256 * l.windowLength + 16384 * calResultCode l.result
  | 3 => l.chosenTap + 256 * l.captureDelay
  | _ => 0

/-- A paired item whole: the low register's 16 bits and the high register's above them (R177, 11.7). -/
def pairedValue (s : State) : PairedItem → Nat
  | .firstFault =>
    burstCode 0 (s.faults.first.map fun f => f.1)
      + 65536 * 1024 * (match s.faults.first with
        | some f => sourceCode f.2
        | none => 7)
      + 65536 * regBit 15 s.faults.more
  | .lastCorrected => burstCode 1 s.faults.lastCorrected + 65536 * regBit 15 s.faults.lastCorrected.isSome
  | .scrubPointer => s.scrub.pointer / 32
  | .scrubRecord => burstCode 2 s.scrub.record.burst + 65536 * 8192 * phaseCode s.scrub.record

/-- DEVICE_STATUS (11.7). -/
def deviceStatus (s : State) : Nat :=
  portStateCode s.port.state + regBit 4 s.port.stopPending + regBit 5 s.transferReset + 256 * sweepTap s.port.sweep

/-- A register of the block 40 to 67: channel (i − 40) div 8. -/
def readChannelBlock (s : State) (i : Nat) : Nat :=
  if h : (i - 0x40) / 8 < 5 then readChannel s.channels[(i - 0x40) / 8] ((i - 0x40) % 8) else 0

/-- A register of the block 68 to 73: port (i − 68) div 3. -/
def readPortBlock (s : State) (i : Nat) : Nat :=
  if h : (i - 0x68) / 3 < 4 then readPort s ⟨(i - 0x68) / 3, h⟩ ((i - 0x68) % 3) else 0

/-- A register of the block 80 to 94: the timing parameters. -/
def readParamBlock (s : State) (i : Nat) : Nat :=
  if h : i - 0x80 < 21 then s.params[i - 0x80] else 0

/-- A register of the block A0 to B3: lane (i − A0) div 4. -/
def readLaneBlock (s : State) (i : Nat) : Nat :=
  if h : (i - 0xA0) / 4 < 5 then readLane s.port.lanes[(i - 0xA0) / 4] ((i - 0xA0) % 4) else 0

/-- A register of the block 30 to 3F: the window buffer. -/
def readWindowBlock (s : State) (i : Nat) : Nat :=
  if h : i - 0x30 < 16 then (s.window.buffer[i - 0x30]).toNat else 0

/-- The registers that stand alone in the map of 11.7; an index that names none reads 0. -/
def readSingle (s : State) : Nat → Nat
  | 0x01 => refusalCodeOf s.refusal.code + 256 * s.refusal.index.toNat
  | 0x02 => (flagHalf s.flagView .a).toNat
  | 0x03 => (flagHalf s.flagView .b).toNat
  | 0x04 => (flagHalf s.mask .a).toNat
  | 0x05 => (flagHalf s.mask .b).toNat
  | 0x06 => deviceStatus s
  | 0x08 => s.slotSelect + regBit 8 s.page
  | 0x18 => s.cq.queue.length
  | 0x19 => s.cq.nextSequence.toNat
  | 0x1A => s.cq.threshold
  | 0x1B => s.cq.holdoff
  | 0x20 => s.window.address.toNat % 65536
  | 0x21 => s.window.address.toNat / 65536
  | 0x22 => windowStatusCode s.window.status
  | 0x74 => s.paq.length
  | 0x75 => (s.wdb.toList.filter fun w => w.isSome).length
  | 0x76 => (s.paq.filter fun e => e.overdue).length
  | 0x77 => s.bypassCap
  | 0x78 => regBit 0 (s.rowPolicy = .shutAfterUse)
  | 0x79 => s.idleShut
  | 0x7A => regBit 0 s.renewEn
  | 0x7B => s.layers
  | 0x7C => regBit 0 s.protectEn
  | 0x7D => s.minWin
  | 0x98 => readRenew s 0 0
  | 0x99 => readRenew s 0 1
  | 0x9A => readRenew s 1 0
  | 0x9B => readRenew s 1 1
  | 0xC0 => pairedValue s .firstFault % 65536
  | 0xC1 => s.captures.firstFault.toNat / 65536
  | 0xC2 => s.faults.uncorrectable
  | 0xC3 => s.faults.corrected
  | 0xC4 => pairedValue s .lastCorrected % 65536
  | 0xC5 => s.captures.lastCorrected.toNat / 65536
  | 0xC8 => regBit 0 s.scrub.enable
  | 0xC9 => s.scrub.interval.toNat
  | 0xCA => pairedValue s .scrubPointer % 65536
  | 0xCB => s.captures.scrubPointer.toNat / 65536
  | 0xCC => s.scrub.passCount.toNat
  | 0xCD => pairedValue s .scrubRecord % 65536
  | 0xCE => s.captures.scrubRecord.toNat / 65536
  | _ => 0

/-- The value a read of a register returns (R177): 0 while the reset pin is held, and at every index that names none. -/
def readRegister (s : State) (index : BitVec 8) : Reg :=
  let i := index.toNat
  if s.pinHeld then 0#16
  else if 0x09 ≤ i && i ≤ 0x10 then
    reg (if s.page then readPage1 s.slots[s.slotSelect] (i - 0x09) else readPage0 s.slots[s.slotSelect] (i - 0x09))
  else if 0x14 ≤ i && i ≤ 0x17 then reg (readHead s.cq (i - 0x14))
  else if 0x30 ≤ i && i < 0x40 then reg (readWindowBlock s i)
  else if 0x40 ≤ i && i < 0x68 then reg (readChannelBlock s i)
  else if 0x68 ≤ i && i < 0x74 then reg (readPortBlock s i)
  else if 0x80 ≤ i && i < 0x95 then reg (readParamBlock s i)
  else if 0xA0 ≤ i && i < 0xB4 then reg (readLaneBlock s i)
  else reg (readSingle s i)

/-- The low register of a paired item (11.7). -/
def lowRegister : PairedItem → BitVec 8
  | .firstFault => 0xC0#8
  | .lastCorrected => 0xC4#8
  | .scrubPointer => 0xCA#8
  | .scrubRecord => 0xCD#8

/-- The high register of a paired item (11.7). -/
def highRegister : PairedItem → BitVec 8
  | .firstFault => 0xC1#8
  | .lastCorrected => 0xC5#8
  | .scrubPointer => 0xCB#8
  | .scrubRecord => 0xCE#8

/-- A capture of one paired item. -/
def Captures.store (k : Captures) (v : BitVec 32) : PairedItem → Captures
  | .firstFault => { k with firstFault := v }
  | .lastCorrected => { k with lastCorrected := v }
  | .scrubPointer => { k with scrubPointer := v }
  | .scrubRecord => { k with scrubRecord := v }

/-- A read of the low register: its value goes out on the data lines and the whole item is captured (R177). -/
def readPaired (item : PairedItem) (s : State) : State :=
  { s with
    hostData := readRegister s (lowRegister item)
    captures := s.captures.store (BitVec.ofNat 32 (pairedValue s item)) item }

/-- PAIRED_LOW_READ. -/
def execPairedLowRead (item : PairedItem) (s : State) : Host.Outcome State Fault Refusal :=
  whenReleased (readPaired item) s

end Sys2Proof.Machine
end

