-- ==== Sys2Proof/Machine/Resets.lean ====
section
/-! DEFINITION. The two resets and the reset pin (11.6). -/

namespace Sys2Proof.Machine

/-- A discarded waiting access is handed back (R43): a write frees its WDB slot, a channel's read its return slot, and the
channel's outstanding count falls. -/
def discardEntry (s : State) (e : Entry) : State :=
  let s1 := releaseWdb e.buffer s
  let s2 := match e.buffer with
    | .returnSlot c i => s1.setReturn c i .free
    | _ => s1
  match e.source with
  | .ch c => s2.modChannel c fun ch => { ch with outstanding := ch.outstanding - 1 }
  | _ => s2

/-- The PAQ at the start of a transfer reset: every waiting access is discarded (R43). -/
def discardWaiting (s : State) : State := { s.paq.foldl discardEntry s with paq := [] }

/-- The arbiter at the start of a transfer reset (R29). -/
def resetArbiter (s : State) : State :=
  s.modArbiter fun _ => { turn := 0, remaining := s.channels[(0 : Fin 5)].weight, scrubWait := 0 }

/-- A slot at the start of a transfer reset (R90, R105): the units reached are those of the channel that runs it. -/
def Slot.atTransferReset (channels : Vector Channel 5) (d : Slot) : Slot :=
  match d.owner with
  | .host => d
  | .taken => { d with owner := .host, holder := none, result := .cancelled, doneUnits := 0 }
  | .running =>
    { d with
      owner := .host, holder := none, result := .cancelled
      doneUnits := match d.holder with
        | some c => channels[c].unitsReached
        | none => 0 }

/-- A channel at the start of a transfer reset (R127). The slot it ran is kept as its former slot, whose DONE_UNITS follows
its writes (R105). -/
def Channel.atTransferReset (ch : Channel) : Channel :=
  { ch with
    state := .off, queue := [], current := none, runMode := none, stopPoint := none, pendingRecord := none
    offered := none, lastRefused := none, endedByMark := false, formerSlot := ch.current
    returns := mapVector ch.returns freeIfFilled }

/-- The completion and interrupt unit at the start of a transfer reset (R176). -/
def CompletionUnit.atTransferReset (u : CompletionUnit) : CompletionUnit :=
  { u with queue := [], nextSequence := 0, timer := none, latch := false }

/-- The window at the start of a transfer reset (R182): `waiting` says whether its access stands in the PAQ. -/
def windowAtTransferReset (waiting : Bool) (s : State) : State :=
  if s.window.status = .busy then
    if s.window.offered.isSome || waiting then endWindow .aborted s else s
  else s.modWindow fun w => { w with status := .idle }

/-- The start of a transfer reset (R184), after which it ends at once if the issued list is empty. The flags clear first, so
that an end of a window command in the same event raises WINDOW_DONE (R176; log 13). -/
def startTransferReset (s : State) : State :=
  let waiting := s.paq.any fun e => e.source = .win
  let s1 := discardWaiting s
  let s2 : State :=
    { s1 with
      transferReset := true
      slots := mapVector s1.slots (Slot.atTransferReset s1.channels)
      channels := mapVector s1.channels Channel.atTransferReset
      ports := mapVector s1.ports fun p => { p with fifo := [] }
      flags := s1.flags &&& keptFlags
      cq := s1.cq.atTransferReset }
  endTransferReset (windowAtTransferReset waiting (resetArbiter (scrubAbandon s2)))

/-- TRANSFER RESET (R184). -/
def transferReset (s : State) : State := s.unlessBusy commandRegister startTransferReset

/-- Assertion of the reset input: a device reset, held (R140, R183). -/
def pinAsserted (s : State) : State := { deviceReset s with pinHeld := true }

/-- TRANSFER_RESET. -/
def execTransferReset (s : State) : Host.Outcome State Fault Refusal := whenReleased transferReset s

/-- DEVICE_RESET (R183): never refused. -/
def execDeviceReset (s : State) : Host.Outcome State Fault Refusal := whenReleased deviceReset s

/-- RESET_PIN (R183): a pin already held stays held. -/
def execResetPin (s : State) : Host.Outcome State Fault Refusal := whenReleased pinAsserted s

/-- RESET_PIN_RELEASE (R3, R140): the part leaves device reset. A pin that is not held cannot be released (log 3). -/
def execResetPinRelease (s : State) : Host.Outcome State Fault Refusal :=
  .next (if s.pinHeld then { s with pinHeld := false } else s)

end Sys2Proof.Machine
end

