-- ==== Sys2Proof/Machine/HostPort.lean ====
section
/-! DEFINITION. Host writes: flags, mask, descriptor fields, configuration items, the command register, every other register
(11.1 to 11.5). -/

namespace Sys2Proof.Machine

/-! ### Flags and mask (10.4) -/

/-- A write of ones to a flag register, never refused (R174, R178): the named flags clear with their further effects. -/
def clearFlags (r : FlagReg) (v : Reg) (s : State) : State :=
  let places := flagPlaces v r
  let s1 := { s with flags := s.flags &&& ~~~places }
  let s2 :=
    if places.getLsbD (Flag.position .linkRefused) then
      { s1 with channels := mapVector s1.channels fun ch => { ch with lastRefused := none } }
    else s1
  if places.getLsbD (Flag.position .renewOverrun) then
    { s2 with renews := mapVector s2.renews fun l => { l with overrun := false } }
  else s2

/-- The index of a mask register (11.7). -/
def maskRegister : FlagReg → BitVec 8
  | .a => 0x04#8
  | .b => 0x05#8

/-- A write to a mask register (R175). -/
def writeMask (r : FlagReg) (v : Reg) (s : State) : State :=
  s.unlessBusy (maskRegister r) fun s => { s with mask := (s.mask &&& ~~~(flagCover r)) ||| flagPlaces v r }

/-! ### Descriptor fields (5.1, 11.4) -/

/-- The index of a field register (11.7). -/
def fieldRegister (f : Fin 8) : BitVec 8 := BitVec.ofNat 8 (0x09 + f)

/-- The fields that are read only: status, DONE_UNITS and the last register of page 1 (R92, R180). -/
def fieldReadOnly (page : Bool) (f : Fin 8) : Bool := f.val = 7 || (page && f.val = 6)

/-- A slot with a field register of page 0 written; none where the value names nothing (R88, R89, 11.7). -/
def writePage0 (d : Slot) (v : Reg) : Nat → Option Slot
  | 0 => (opOfReg v).map fun op => { d with op := op }
  | 1 => some { d with addr := withLow d.addr v }
  | 2 => some { d with addr := withHigh d.addr v }
  | 3 => some { d with units := v }
  | 4 => (linkOfReg v).map fun l => { d with link := l }
  | 5 => some { d with notify := bitOfReg v }
  | 6 => some { d with tag := v }
  | _ => none

/-- A slot with a field register of page 1 written. -/
def writePage1 (d : Slot) (v : Reg) : Nat → Option Slot
  | 0 => some { d with dest := withLow d.dest v }
  | 1 => some { d with dest := withHigh d.dest v }
  | 2 => some { d with pattern := withLow d.pattern v }
  | 3 => some { d with pattern := withHigh d.pattern v }
  | 4 => some { d with stopOnMark := bitOfReg v }
  | 5 => some { d with markAtEnd := bitOfReg v }
  | _ => none

/-- A host write to a field register of the selected slot (R89, R92, R180). -/
def writeField (f : Fin 8) (v : Reg) (s : State) : State :=
  let r := fieldRegister f
  s.unlessBusy r fun s =>
    if fieldReadOnly s.page f then s.refuse .readOnly r
    else if s.slots[s.slotSelect].owner ≠ .host then s.refuse .slotBusy r
    else
      match (if s.page then writePage1 s.slots[s.slotSelect] v f else writePage0 s.slots[s.slotSelect] v f) with
      | some d => s.modSlot s.slotSelect fun _ => d
      | none => s.refuse .timingInvalid r

/-! ### Items with a range, refused with TIMING_INVALID outside it -/

/-- A value tested against a range (R178: the value is tested last). -/
def inRange (index : BitVec 8) (low high : Nat) (v : Reg) (set : Nat → State → State) (s : State) : State :=
  if low ≤ v.toNat && v.toNat ≤ high then set v.toNat s else s.refuse .timingInvalid index

/-- The items of R156: locked outside OFFLINE and FAULT, then their range. -/
def configItem (index : BitVec 8) (low high : Nat) (v : Reg) (set : Nat → State → State) (s : State) : State :=
  if configOpen s then inRange index low high v set s else s.refuse .configLocked index

/-- A timing parameter (R4). -/
def writeParam (i : Fin 21) (index : BitVec 8) (v : Reg) (s : State) : State :=
  configItem index paramTable[i].low paramTable[i].high v (fun n s => { s with params := s.params.set i n }) s

/-- A channel's weight and bounds (R32, R111); the channel's other registers are read only (R128). -/
def writeChannelItem (c : Fin 5) (item : Nat) (index : BitVec 8) (v : Reg) (s : State) : State :=
  match item with
  | 5 => inRange index 1 8 v (fun n s => s.modChannel c fun ch => { ch with weight := n }) s
  | 6 =>
    if s.channels[c].state ≠ .off then s.refuse .channelState index
    else inRange index 0 16384 v (fun n s => s.modChannel c fun ch => { ch with boundsBase := n }) s
  | 7 =>
    if s.channels[c].state ≠ .off then s.refuse .channelState index
    else inRange index 0 16384 v (fun n s => s.modChannel c fun ch => { ch with boundsLimit := n }) s
  | _ => s.refuse .readOnly index

/-- The window address and buffer while the status is BUSY (R181). -/
def unlessWindowBusy (index : BitVec 8) (f : Window → Window) (s : State) : State :=
  if s.window.status = .busy then s.refuse .windowBusy index else s.modWindow f

/-- A write to SLOT_SELECT (R180). -/
def writeSlotSelect (v : Reg) (s : State) : State :=
  { s with slotSelect := ⟨v.toNat % 64, by omega⟩, page := v.toNat / 256 % 2 = 1 }

/-- A register of the block 40 to 67. -/
def writeChannelBlock (i : Nat) (index : BitVec 8) (v : Reg) (s : State) : State :=
  if h : (i - 0x40) / 8 < 5 then writeChannelItem ⟨(i - 0x40) / 8, h⟩ ((i - 0x40) % 8) index v s
  else s.refuse .readOnly index

/-- A register of the block 68 to 73: direction and enable; the level is read only (R130). -/
def writePortBlock (i : Nat) (index : BitVec 8) (v : Reg) (s : State) : State :=
  if h : (i - 0x68) / 3 < 4 then
    match (i - 0x68) % 3 with
    | 0 => writeDirection ⟨(i - 0x68) / 3, h⟩ v s
    | 1 => writeEnable ⟨(i - 0x68) / 3, h⟩ v s
    | _ => s.refuse .readOnly index
  else s.refuse .readOnly index

/-- A register of the block 80 to 94. -/
def writeParamBlock (i : Nat) (index : BitVec 8) (v : Reg) (s : State) : State :=
  if h : i - 0x80 < 21 then writeParam ⟨i - 0x80, h⟩ index v s else s.refuse .readOnly index

/-- A register of the block 30 to 3F. -/
def writeWindowBlock (i : Nat) (index : BitVec 8) (v : Reg) (s : State) : State :=
  if h : i - 0x30 < 16 then unlessWindowBusy index (fun w => { w with buffer := w.buffer.set (i - 0x30) v }) s
  else s.refuse .readOnly index

/-- The writable registers that stand alone in the map of 11.7; every other index is read only (R177). -/
def writeSingle (i : Nat) (index : BitVec 8) (v : Reg) (s : State) : State :=
  match i with
  | 0x04 => writeMask .a v s
  | 0x05 => writeMask .b v s
  | 0x08 => writeSlotSelect v s
  | 0x1A => inRange index 1 32 v (fun n s => s.modCq fun u => { u with threshold := n }) s
  | 0x1B => inRange index 0 65535 v (fun n s => s.modCq fun u => { u with holdoff := n }) s
  | 0x20 => unlessWindowBusy index (fun w => { w with address := withLow w.address v }) s
  | 0x21 => unlessWindowBusy index (fun w => { w with address := withHigh w.address v }) s
  | 0x77 => inRange index 1 63 v (fun n s => { s with bypassCap := n }) s
  | 0x78 => inRange index 0 1 v (fun n s => { s with rowPolicy := if n = 0 then .keep else .shutAfterUse }) s
  | 0x79 => inRange index 0 255 v (fun n s => { s with idleShut := n }) s
  | 0x7A => inRange index 0 1 v (fun n s => { s with renewEn := n = 1 }) s
  | 0x7B => writeLayers v s
  | 0x7C => configItem index 0 1 v (fun n s => { s with protectEn := n = 1 }) s
  | 0x7D => configItem index 1 16 v (fun n s => { s with minWin := n }) s
  | 0xC8 => writeScrubEn v s
  | 0xC9 => inRange index 1 65535 v (fun n s => s.modScrub fun u => { u with interval := BitVec.ofNat 16 n }) s
  | _ => s.refuse .readOnly index

/-! ### The command register (R179) -/

/-- The work of a decoded host command. The decoder gives only the seventeen commands of R179. -/
def runHostCommand (i : Instr) (s : State) : State :=
  match i with
  | .submit c k => submit c k s
  | .enable c => onChannel c enableChannel s
  | .disable c => onChannel c disableChannel s
  | .cancel c => onChannel c cancelChannel s
  | .resume c => onChannel c resumeChannel s
  | .flush p => flush p s
  | .start => start s
  | .recal => recal s
  | .stop => stop s
  | .park => park s
  | .unpark => unpark s
  | .clearFaults => clearFaults s
  | .pop => pop s
  | .windowRead z => windowCommand .read z s
  | .windowWrite z => windowCommand .write z s
  | .transferReset => transferReset s
  | .deviceReset => deviceReset s
  | _ => s

/-- A write to the command register; a code that names no command is refused with TIMING_INVALID (R179). -/
def writeCommand (v : Reg) (s : State) : State :=
  match decodeCommand v with
  | some i => runHostCommand i s
  | none => s.unlessBusy commandRegister fun s => s.refuse .timingInvalid commandRegister

/-! ### Any register (R178) -/

/-- A write to a register that RESET_BUSY is tested first for. -/
def writeOther (index : BitVec 8) (v : Reg) (s : State) : State :=
  let i := index.toNat
  if h : 0x09 ≤ i ∧ i ≤ 0x10 then writeField ⟨i - 0x09, by omega⟩ v s
  else if 0x30 ≤ i && i < 0x40 then writeWindowBlock i index v s
  else if 0x40 ≤ i && i < 0x68 then writeChannelBlock i index v s
  else if 0x68 ≤ i && i < 0x74 then writePortBlock i index v s
  else if 0x80 ≤ i && i < 0x95 then writeParamBlock i index v s
  else writeSingle i index v s

/-- A host write of a value to a register, whatever the register (R178): the command register and the flag registers judge
RESET_BUSY themselves. -/
def writeRegister (index : BitVec 8) (v : Reg) (s : State) : State :=
  if index = commandRegister then writeCommand v s
  else if index = 0x02#8 then clearFlags .a v s
  else if index = 0x03#8 then clearFlags .b v s
  else s.unlessBusy index (writeOther index v)

/-- FLAG_CLEAR. -/
def execFlagClear (r : FlagReg) (v : Reg) (s : State) : Host.Outcome State Fault Refusal := whenReleased (clearFlags r v) s

/-- MASK_WRITE. -/
def execMaskWrite (r : FlagReg) (v : Reg) (s : State) : Host.Outcome State Fault Refusal := whenReleased (writeMask r v) s

/-- DESCRIPTOR_FIELD_WRITE. -/
def execDescriptorFieldWrite (f : Fin 8) (v : Reg) (s : State) : Host.Outcome State Fault Refusal :=
  whenReleased (writeField f v) s

/-- REGISTER_WRITE. -/
def execRegisterWrite (index : BitVec 8) (v : Reg) (s : State) : Host.Outcome State Fault Refusal :=
  whenReleased (writeRegister index v) s

end Sys2Proof.Machine
end

