-- ==== Sys2Proof/Machine/Banks.lean ====
section
/-! DEFINITION. The bank state machine's own transitions, the idle timers and the renewing timers (1.6, 1.10, 1.11, R63). -/

namespace Sys2Proof.Machine

/-- The later of two times, a cleared one taking no part (R3). -/
def laterOf : Option Nat → Option Nat → Option Nat
  | none, t => t
  | t, none => t
  | some t, some u => some (max t u)

/-- A recorded time plus an interval. -/
def after (t : Option Nat) (x : Nat) : Option Nat := t.map fun u => u + x

/-- The earliest shut time of a bank; none while no time takes part (R11). -/
def earliestShut (s : State) (b : Bank) : Option Nat :=
  laterOf (after b.lastOpen (s.param .opm)) (laterOf (after b.lastRead (s.param .r2s)) (after b.writeEnd (s.param .wrs)))

/-- The idle timer's load (R63). -/
def idleLoad (s : State) : IdleTimer := if s.idleShut = 0 then .stopped else .running s.idleShut

/-- A bank goes SHUTTING at a time (R8, R12). -/
def Bank.shutAt (b : Bank) (t : Nat) : Bank :=
  { b with state := .shutting, row := none, lastShut := some t, autoShut := false, idle := .stopped }

/-- A2C has passed since the OPEN of an OPENING bank (R8). -/
def a2cDue (s : State) (b : Bank) : Bool := b.state = .opening && passed s.mclk b.lastOpen (s.param .a2c)

/-- SHT has passed since the shut of a SHUTTING bank (R8, R12). -/
def shtDue (s : State) (b : Bank) : Bool := b.state = .shutting && passed s.mclk b.lastShut (s.param .sht)

/-- The count has reached the earliest shut time of a bank with auto-shut pending (R17). -/
def autoShutDue (s : State) (b : Bank) : Bool :=
  b.state = .openRow && b.autoShut && passed s.mclk (earliestShut s b) 0

/-- The idle timer has run out (R63). -/
def idleDue (b : Bank) : Bool := b.idle = .running 0

/-- A2C expiry: OPENING to OPEN, the idle timer loaded or stopped (R8, R63). -/
def a2cExpired (b : Fin 32) (s : State) : State :=
  if a2cDue s s.banks[b] then s.modBank b fun r => { r with state := .openRow, idle := idleLoad s } else s

/-- SHT expiry: SHUTTING to CLOSED (R8). -/
def shtExpired (b : Fin 32) (s : State) : State :=
  if shtDue s s.banks[b] then s.modBank b fun r => { r with state := .closed } else s

/-- An auto-shut takes effect, at the earliest shut time (R17). -/
def autoShutTaken (b : Fin 32) (s : State) : State :=
  if autoShutDue s s.banks[b] then s.modBank b fun r => r.shutAt ((earliestShut s r).getD s.mclk) else s

/-- An idle timer expires and stays expired (R63). -/
def idleExpired (b : Fin 32) (s : State) : State :=
  if idleDue s.banks[b] then s.modBank b fun r => { r with idle := .expired } else s

/-- A renewing timer expires: the layer leaves RENEWING (R19). -/
def renewingExpired (l : Fin 2) (s : State) : State :=
  if s.layerRecords[l].renewing = some 0 then s.modLayer l fun r => { r with renewing := none } else s

/-- Every transition of a bank that has come due. -/
def settleBank (s : State) (b : Fin 32) : State :=
  idleExpired b (shtExpired b (autoShutTaken b (a2cExpired b s)))

/-- Every bank and layer transition that has come due at the present count is in effect (R46). -/
def settleBanks (s : State) : State :=
  renewingExpired 1 (renewingExpired 0 ((List.finRange 32).foldl settleBank s))

/-- A2C_EXPIRY. -/
def execA2cExpiry (b : Fin 32) (s : State) : Host.Outcome State Fault Refusal := whenReleased (a2cExpired b) s

/-- SHT_EXPIRY. -/
def execShtExpiry (b : Fin 32) (s : State) : Host.Outcome State Fault Refusal := whenReleased (shtExpired b) s

/-- AUTO_SHUT. -/
def execAutoShut (b : Fin 32) (s : State) : Host.Outcome State Fault Refusal := whenReleased (autoShutTaken b) s

/-- IDLE_TIMER_EXPIRY. -/
def execIdleTimerExpiry (b : Fin 32) (s : State) : Host.Outcome State Fault Refusal := whenReleased (idleExpired b) s

/-- RENEWING_TIMER_EXPIRY. -/
def execRenewingTimerExpiry (l : Fin 2) (s : State) : Host.Outcome State Fault Refusal :=
  whenReleased (renewingExpired l) s

end Sys2Proof.Machine
end

