-- ==== Sys2Proof/Machine/Scheduler.lean ====
section
/-! DEFINITION. The command scheduler: eligibility, the seven classes, the issue (01, 03). -/

namespace Sys2Proof.Machine

/-! ### What a waiting access wants -/

/-- An access's bank. -/
def Entry.bank (e : Entry) : Fin 32 := bankOf e.address

/-- An access's layer. -/
def Entry.layer (e : Entry) : Fin 2 := layerOf e.address

/-- An access's row. -/
def Entry.row (e : Entry) : Nat := rowOf e.address

/-- An access hits a bank's open row. -/
def hits (s : State) (b : Fin 32) (e : Entry) : Bool := e.bank = b && s.banks[b].row = some e.row

/-- The oldest overdue waiting entry (R41). -/
def oldestOverdue (s : State) : Option Entry := s.paq.find? fun e => e.overdue

/-- An entry younger than the oldest overdue one is held (R41). -/
def heldByOverdue (s : State) (e : Entry) : Bool :=
  match oldestOverdue s with
  | some o => o.id < e.id
  | none => false

/-! ### Eligibility (1.7 to 1.13) -/

/-- A layer is RENEWING while its renewing timer runs (R19). -/
def renewing (s : State) (l : Fin 2) : Bool := s.layerRecords[l].renewing.isSome

/-- The port states of R9's last condition. -/
def openState (s : State) : Bool :=
  match s.port.state with
  | .online => true
  | .parking => !s.paq.isEmpty
  | .recalibrating => !s.paq.isEmpty
  | _ => false

/-- The open window allows an OPEN (R9). -/
def windowAllows (s : State) (l : Fin 2) : Bool :=
  s.layerRecords[l].openWindow.length < 4 || passed s.mclk s.layerRecords[l].openWindow.head? (s.param .own)

/-- OSF has passed since the OPENs of the other clusters of the layer (R9). -/
def osfPassed (s : State) (c : Fin 8) : Bool :=
  (List.finRange 8).all fun d =>
    d = c || layerOfCluster d ≠ layerOfCluster c || passed s.mclk s.clusters[d].lastOpen (s.param .osf)

/-- An OPEN for a bank is eligible (R9). -/
def openEligible (s : State) (b : Fin 32) : Bool :=
  let l := layerOfBank b
  let c := clusterOfBank b
  s.fitted l && s.banks[b].state = .closed
    && passed s.mclk s.banks[b].lastOpen (s.param .orc) && passed s.mclk s.banks[b].lastShut (s.param .sht)
    && passed s.mclk s.clusters[c].lastOpen (s.param .osn) && osfPassed s c && windowAllows s l
    && !s.renews[l].urgent && !renewing s l && openState s

/-- A SHUT for a bank is eligible (R11). -/
def shutEligible (s : State) (b : Fin 32) : Bool :=
  s.banks[b].state = .openRow && !s.banks[b].autoShut && passed s.mclk (earliestShut s s.banks[b]) 0

/-- The write data ends that a READ of a cluster waits for (R13). -/
def writesPassed (s : State) (c : Fin 8) : Bool :=
  (List.finRange 32).all fun b =>
    passed s.mclk s.banks[b].writeEnd (if clusterOfBank b = c then s.param .w2rn else s.param .w2rf)

/-- R2W has passed since the READs that stand in the layer records (R13). -/
def readsPassed (s : State) : Bool :=
  (List.finRange 2).all fun l =>
    match s.layerRecords[l].lastColumn with
    | some (t, .read) => t + s.param .r2w ≤ s.mclk
    | _ => true

/-- CSN and CSF have passed for a cluster (R13). -/
def columnsPassed (s : State) (c : Fin 8) : Bool :=
  (List.finRange 8).all fun d =>
    passed s.mclk s.clusters[d].lastColumn (if d = c then s.param .csn else s.param .csf)

/-- A column command's data start, when issued now (R15). -/
def dataStart (s : State) (k : Kind) : Nat :=
  s.mclk + match k with
    | .read => s.param .rdl
    | .write => s.param .wdl

/-- The data bus is free at a data start for a layer (R15). -/
def busFree (s : State) (l : Fin 2) (start : Nat) : Bool :=
  passed start s.dataBus.ends
    (match s.dataBus.last with
      | some (m, _) => if m = l then 0 else s.param .lsw
      | none => 0)

/-- The conditions of R13 that concern clusters, layers and the data bus. -/
def columnTiming (s : State) (k : Kind) (c : Fin 8) : Bool :=
  columnsPassed s c && busFree s (layerOfCluster c) (dataStart s k) &&
    match k with
    | .read => writesPassed s c
    | .write => readsPassed s

/-- Which classes apply (R48): 1, 2 to 5, 6, the relaxed and the pull-in renews of 7, the PATTERN READ and the PARK. -/
structure Classes where
  urgent : Bool := false
  accesses : Bool := false
  shuts : Bool := false
  relaxed : Bool := false
  pullIn : Bool := false
  pattern : Bool := false
  park : Bool := false
  deriving DecidableEq, Repr

/-- The table of R48. The drain has ended when the PAQ is empty (R44). -/
def classes (s : State) : Classes :=
  let drained := s.paq.isEmpty
  match s.port.state with
  | .offline => {}
  | .starting => {}
  | .fault => {}
  | .parked => {}
  | .unparking => {}
  | .calibrating => { urgent := true, pattern := true }
  | .online =>
    if s.port.stopPending && drained then { urgent := true, shuts := true }
    else { urgent := true, accesses := true, shuts := true, relaxed := true, pullIn := true }
  | .parking =>
    if drained then { urgent := true, shuts := true, relaxed := true, park := true }
    else { urgent := true, accesses := true, shuts := true, relaxed := true }
  | .recalibrating =>
    if s.port.sweep ≠ .none then { urgent := true, pattern := true }
    else if drained then { urgent := true, shuts := true }
    else { urgent := true, accesses := true, shuts := true, relaxed := true, pullIn := true }

/-- A waiting access is column-eligible (R49). -/
def columnEligible (s : State) (e : Entry) : Bool :=
  s.banks[e.bank].state = .openRow && s.banks[e.bank].row = some e.row && !s.banks[e.bank].autoShut
    && columnTiming s e.kind (clusterOfBank e.bank)
    && e.predecessors.isEmpty && !heldByOverdue s e && !s.renews[e.layer].urgent && (classes s).accesses

/-- The port states in which a RENEW is eligible (R18). -/
def renewState : PortState → Bool
  | .calibrating | .online | .parking | .recalibrating => true
  | _ => false

/-- All 16 banks of a layer are CLOSED. -/
def layerClosed (s : State) (l : Fin 2) : Bool :=
  (List.finRange 32).all fun b => layerOfBank b ≠ l || s.banks[b].state = .closed

/-- A RENEW for a layer is eligible (R18), and renewing is on (R79). -/
def renewEligible (s : State) (l : Fin 2) : Bool :=
  s.fitted l && layerClosed s l && !renewing s l && renewState s.port.state && s.renewEn

/-- The PATTERN READ is eligible (R20). -/
def patternEligible (s : State) : Bool :=
  (match s.port.sweep with
    | .requested _ => true
    | _ => false)
    && columnTiming s .read 0 && !renewing s 0

/-- The fitted layers' debts are 0 or below. -/
def debtsSettled (s : State) : Bool := (List.finRange 2).all fun l => !s.fitted l || s.renews[l].debt ≤ 0

/-- The PARK DRAM command's conditions (R21, R61). -/
def parkEligible (s : State) : Bool :=
  drainSettled s && debtsSettled s && !renewing s 0 && !renewing s 1

/-! ### The choice (3.3 to 3.9) -/

/-- What the scheduler issues in a slot; a column command is for a waiting access. -/
inductive Choice where
  | openRow (bank : Fin 32) (row : Nat)
  | shut (bank : Fin 32)
  | column (e : Entry)
  | renew (layer : Fin 2)
  | patternRead
  | park
  deriving DecidableEq, Repr

/-- Class 1 for one layer (R50). -/
def urgentOf (s : State) (l : Fin 2) : Option Choice :=
  if s.fitted l && s.renews[l].urgent then
    match firstFin 32 fun b => layerOfBank b = l && shutEligible s b with
    | some b => some (.shut b)
    | none => if renewEligible s l then some (.renew l) else none
  else none

/-- Class 1 (R50). -/
def class1 (s : State) : Option Choice := (urgentOf s 0).or (urgentOf s 1)

/-- Class 2 for the oldest overdue entry (R52). -/
def overdueService (s : State) (e : Entry) : Option Choice :=
  let b := s.banks[e.bank]
  match b.state with
  | .closed => if openEligible s e.bank then some (.openRow e.bank e.row) else none
  | .openRow =>
    if b.row = some e.row then if columnEligible s e then some (.column e) else none
    else if shutEligible s e.bank && !(s.paq.any fun f => f.id < e.id && hits s e.bank f) then some (.shut e.bank)
    else none
  | .opening => none
  | .shutting => none

/-- Class 2 (R52). -/
def class2 (s : State) : Option Choice := (oldestOverdue s).bind (overdueService s)

/-- Class 3: the direction of the last burst first, then age (R54). -/
def class3 (s : State) : Option Choice :=
  let eligible := s.paq.filter (columnEligible s)
  let preferred := match s.dataBus.last with
    | some (_, k) => eligible.find? fun (e : Entry) => e.kind = k
    | none => none
  (preferred.or eligible.head?).map .column

/-- Class 4: an OPEN for the oldest access whose bank is CLOSED and may be opened (R56). -/
def class4 (s : State) : Option Choice :=
  (s.paq.find? fun e => openEligible s e.bank).map fun e => .openRow e.bank e.row

/-- An entry is the oldest waiting access to its bank. -/
def oldestToBank (s : State) (e : Entry) : Bool := !(s.paq.any fun f => f.id < e.id && f.bank = e.bank)

/-- Class 5: a SHUT of a bank whose oldest waiting access wants another row (R57). -/
def class5 (s : State) : Option Choice :=
  (s.paq.find? fun e => oldestToBank s e && s.banks[e.bank].row ≠ some e.row && shutEligible s e.bank).map fun e =>
    .shut e.bank

/-- The drain of PARKING, RECALIBRATING or a STOP has ended (R58). -/
def drainEnded (s : State) : Bool :=
  s.paq.isEmpty &&
    match s.port.state with
    | .parking => true
    | .recalibrating => true
    | .online => s.port.stopPending
    | _ => false

/-- Class 6: idle and drain shuts (R58). -/
def class6 (s : State) : Option Choice :=
  (firstFin 32 fun b => shutEligible s b &&
    (drainEnded s || (s.banks[b].idle = .expired && !(s.paq.any (hits s b))))).map .shut

/-- Class 7 for one layer (R59). -/
def quietRenewOf (s : State) (l : Fin 2) : Option Choice :=
  let d := s.renews[l].debt
  if !s.renews[l].urgent && !(s.paq.any fun e => e.layer = l) && renewEligible s l
      && ((1 ≤ d && (classes s).relaxed) || (-3 ≤ d && d ≤ 0 && (classes s).pullIn)) then some (.renew l)
  else none

/-- Class 7 (R59). -/
def class7 (s : State) : Option Choice := (quietRenewOf s 0).or (quietRenewOf s 1)

/-- A class where it applies. -/
def applied (on : Bool) (c : Option Choice) : Option Choice := if on then c else none

/-- The command of a slot: the first class with a candidate (R46, R48, R60, R61). -/
def choose (s : State) : Option Choice :=
  let k := classes s
  (applied k.urgent (class1 s)).or <|
  (applied k.accesses (class2 s)).or <|
  (applied k.accesses (class3 s)).or <|
  (applied k.accesses (class4 s)).or <|
  (applied k.accesses (class5 s)).or <|
  (applied k.shuts (class6 s)).or <|
  (class7 s).or <|
  (applied (k.pattern && patternEligible s) (some .patternRead)).or <|
  applied (k.park && parkEligible s) (some .park)

/-! ### The issue (3.11) -/

/-- An OPEN joins the open window list; of five the oldest is dropped (R7). -/
def pushWindow (times : List Nat) (t : Nat) : List Nat :=
  if times.length < 4 then times ++ [t] else times.drop 1 ++ [t]

/-- Issue of an OPEN (R10). -/
def issueOpen (b : Fin 32) (row : Nat) (s : State) : State :=
  ((s.modBank b fun r => { r with state := .opening, row := some row, lastOpen := some s.mclk }).modCluster
      (clusterOfBank b) fun c => { c with lastOpen := some s.mclk }).modLayer (layerOfBank b) fun l =>
    { l with openWindow := pushWindow l.openWindow s.mclk }

/-- Issue of a SHUT (R12). -/
def issueShut (b : Fin 32) (s : State) : State := s.modBank b fun r => r.shutAt s.mclk

/-- Whether a column command for an access carries auto-shut (R62). -/
def carriesAutoShut (s : State) (e : Entry) : Bool :=
  s.rowPolicy = .shutAfterUse && !(s.paq.any fun f => f.id ≠ e.id && f.bank = e.bank && f.row = e.row)

/-- A waiting entry after the issue of the column command of entry `x` (R38, R40). -/
def Entry.afterIssue (x : Nat) (e : Entry) : Entry :=
  let counted := e.id < x && !e.overdue
  { e with
    predecessors := e.predecessors.filter fun p => p ≠ x
    bypass := if counted then e.bypass + 1 else e.bypass
    overdue := e.overdue || (counted && e.cap ≤ e.bypass + 1) }

/-- A bank after a column command (R14, R17, R63). `auto` says whether it carries auto-shut, `ends` when its data phase ends. -/
def Bank.afterColumn (k : Kind) (now ends : Nat) (auto : Bool) (load : IdleTimer) (b : Bank) : Bank :=
  { b with
    lastRead := if k = .read then some now else b.lastRead
    writeEnd := if k = .write then some ends else b.writeEnd
    autoShut := b.autoShut || auto
    idle := if auto then .stopped else load }

/-- The records of a cluster, its layer and the data bus after a column command or PATTERN READ (R14, R20). -/
def issueOnBus (k : Kind) (c : Fin 8) (ends : Nat) (s : State) : State :=
  { (s.modCluster c fun r => { r with lastColumn := some s.mclk }).modLayer (layerOfCluster c) fun l =>
      { l with lastColumn := some (s.mclk, k) } with
    dataBus := { ends := some ends, last := some (layerOfCluster c, k) } }

/-- Issue of a column command for an access (R14, R42, R64). -/
def issueColumn (e : Entry) (s : State) : State :=
  let ends := dataStart s e.kind + busTimeOf e.size
  let s1 := issueOnBus e.kind (clusterOfBank e.bank) ends s
  let s2 := s1.modBank e.bank (Bank.afterColumn e.kind s.mclk ends (carriesAutoShut s e) (idleLoad s))
  { s2 with
    paq := (s.paq.filter fun f => f.id ≠ e.id).map (Entry.afterIssue e.id)
    issued := s.issued ++
      [{ source := e.source, kind := e.kind, size := e.size, address := e.address, buffer := e.buffer,
         sequence := e.sequence, ends := ends }] }

/-- Issue of a RENEW (R19, R74). -/
def issueRenew (l : Fin 2) (s : State) : State :=
  (s.modLayer l fun r => { r with renewing := some (s.param .rnw) }).modRenew l Renew.paid

/-- Issue of the requested PATTERN READ (R20, R64). -/
def issuePattern (s : State) : State :=
  match s.port.sweep with
  | .requested tap =>
    let ends := dataStart s .read + busTimeOf .full
    (issueOnBus .read 0 ends s).modMemPort fun m => { m with sweep := .inFlight tap ends }
  | _ => s

/-- Issue of the PARK DRAM command (R21, R83): PARKED, timers stopped, PARK_DONE. -/
def issuePark (s : State) : State :=
  let s1 := (stopRenewTimers s).modMemPort fun m => { m with state := .parked }
  (s1.modStack fun m => { m with mode := .parked }).raise .parkDone

/-- The effects of a choice (R64). -/
def issue (c : Choice) (s : State) : State :=
  match c with
  | .openRow b row => issueOpen b row s
  | .shut b => issueShut b s
  | .column e => issueColumn e s
  | .renew l => issueRenew l s
  | .patternRead => issuePattern s
  | .park => issuePark s

/-- A choice as it stands on the command bus. -/
def busCommand (s : State) : Choice → DramCommand
  | .openRow b row => .openRow b row
  | .shut b => .shut b
  | .column e => .column e.kind e.bank (columnOf e.address) e.size (halfOf e.address) (carriesAutoShut s e)
  | .renew l => .renew l
  | .patternRead => .patternRead
  | .park => .park

/-- One command slot on settled banks (R46). -/
def runSlot (s : State) : State :=
  match choose s with
  | some c => { issue c s with commandBus := some (busCommand s c), slotTaken := true }
  | none => { s with commandBus := none, slotTaken := true }

/-- COMMAND_SLOT: the slot of this mclk, on the state as it stands at the count (R46); an mclk has one slot (R5; log 4). -/
def commandSlot (s : State) : State := if s.slotTaken then s else runSlot (settleBanks s)

/-- COMMAND_SLOT. -/
def execCommandSlot (s : State) : Host.Outcome State Fault Refusal := whenReleased commandSlot s

end Sys2Proof.Machine
end

