-- ==== Sys2Proof/Machine/Events.lean ====
section
/-! DEFINITION. What the part does by itself when no command waits: its next due event, or one mclk passes (log 2). -/

namespace Sys2Proof.Machine

/-- The first due transition of a bank: auto-shut, A2C, SHT, idle timer (R8, R17, R63). -/
def dueBankEvent (s : State) : Option Instr :=
  ((firstFin 32 fun b => autoShutDue s s.banks[b]).map .autoShut).or <|
  ((firstFin 32 fun b => a2cDue s s.banks[b]).map .a2cExpiry).or <|
  ((firstFin 32 fun b => shtDue s s.banks[b]).map .shtExpiry).or <|
  ((firstFin 32 fun b => idleDue s.banks[b]).map .idleTimerExpiry).or <|
  (firstFin 2 fun l => s.layerRecords[l].renewing = some 0).map .renewingTimerExpiry

/-- A due event of memory port control or of a data phase (R66, R67, R85, R158, R159, R162, R164, R184). -/
def duePortEvent (s : State) : Option Instr :=
  if s.port.state = .starting && s.port.settle = some 0 then some .settleExpiry
  else if s.port.state = .unparking && s.port.xpt = some 0 then some .xptExpiry
  else if (endedHead s .read).isSome then some (.ret (Config.returnFlips s.mclk))
  else if (endedHead s .write).isSome then some .dataSent
  else if s.transferReset && s.issued.isEmpty then some .transferResetEnd
  else if s.port.state = .recalibrating && s.port.sweep = .none && drainSettled s then some .recalSweepStart
  else if s.port.state = .online && s.port.stopPending && drainSettled s then some .stopComplete
  else
    match s.port.sweep with
    | .inFlight _ ends => if ends ≤ s.mclk then some (.patternReadDataEnd (Config.capturedBeats s.mclk)) else none
    | _ => none

/-- A due event of the sources of accesses and of coalescing (R30, R118, R149, R171). -/
def dueSourceEvent (s : State) : Option Instr :=
  if s.cq.timer = some 0 then some .holdoffExpiry
  else if s.scrub.timer = some 0 && s.scrubTimerRuns then some .scrubIntervalExpiry
  else
    ((firstFin 4 fun p => (nextPlacement s p).isSome).map .wordPlacement).or <|
      if (nextSource s).isSome then some .admission else none

/-- The part's next event at the present count: bank transitions, port events, sources, the command slot, then the renew
timers. The order is the model's (log 2). While the reset pin is held there is none (R140). -/
def ownEvent (s : State) : Option Instr :=
  if s.pinHeld then none
  else
    (dueBankEvent s).or <| (duePortEvent s).or <| (dueSourceEvent s).or <|
      if !s.slotTaken then some .commandSlot
      else (firstFin 2 fun l => s.renews[l].timer = some 0).map .renewTimerExpiry

end Sys2Proof.Machine
end

