-- ==== Sys2Proof/Machine/Dispatch.lean ====
section
/-! DEFINITION. The meaning of every command: one arm per constructor. -/

namespace Sys2Proof.Machine

def exec (i : Instr) (s : State) : Host.Outcome State Fault Refusal :=
  match i with
  | .submit n k => Sys2Proof.Machine.execSubmit n k s
  | .enable n => Sys2Proof.Machine.execEnable n s
  | .disable n => Sys2Proof.Machine.execDisable n s
  | .cancel n => Sys2Proof.Machine.execCancel n s
  | .resume n => Sys2Proof.Machine.execResume n s
  | .flush n => Sys2Proof.Machine.execFlush n s
  | .start => Sys2Proof.Machine.execStart s
  | .recal => Sys2Proof.Machine.execRecal s
  | .stop => Sys2Proof.Machine.execStop s
  | .park => Sys2Proof.Machine.execPark s
  | .unpark => Sys2Proof.Machine.execUnpark s
  | .clearFaults => Sys2Proof.Machine.execClearFaults s
  | .pop => Sys2Proof.Machine.execPop s
  | .windowRead z => Sys2Proof.Machine.execWindowRead z s
  | .windowWrite z => Sys2Proof.Machine.execWindowWrite z s
  | .transferReset => Sys2Proof.Machine.execTransferReset s
  | .deviceReset => Sys2Proof.Machine.execDeviceReset s
  | .resetPin => Sys2Proof.Machine.execResetPin s
  | .flagClear r v => Sys2Proof.Machine.execFlagClear r v s
  | .maskWrite r v => Sys2Proof.Machine.execMaskWrite r v s
  | .descriptorFieldWrite f v => Sys2Proof.Machine.execDescriptorFieldWrite f v s
  | .portDirectionWrite p v => Sys2Proof.Machine.execPortDirectionWrite p v s
  | .portEnableWrite p v => Sys2Proof.Machine.execPortEnableWrite p v s
  | .layersWrite v => Sys2Proof.Machine.execLayersWrite v s
  | .scrubEnWrite v => Sys2Proof.Machine.execScrubEnWrite v s
  | .pairedLowRead item => Sys2Proof.Machine.execPairedLowRead item s
  | .registerWrite index v => Sys2Proof.Machine.execRegisterWrite index v s
  | .portArrival p w m => Sys2Proof.Machine.execPortArrival p w m s
  | .portTake p => Sys2Proof.Machine.execPortTake p s
  | .wordPlacement p => Sys2Proof.Machine.execWordPlacement p s
  | .admission => Sys2Proof.Machine.execAdmission s
  | .commandSlot => Sys2Proof.Machine.execCommandSlot s
  | .a2cExpiry b => Sys2Proof.Machine.execA2cExpiry b s
  | .shtExpiry b => Sys2Proof.Machine.execShtExpiry b s
  | .autoShut b => Sys2Proof.Machine.execAutoShut b s
  | .idleTimerExpiry b => Sys2Proof.Machine.execIdleTimerExpiry b s
  | .renewingTimerExpiry l => Sys2Proof.Machine.execRenewingTimerExpiry l s
  | .renewTimerExpiry l => Sys2Proof.Machine.execRenewTimerExpiry l s
  | .settleExpiry => Sys2Proof.Machine.execSettleExpiry s
  | .patternReadDataEnd b => Sys2Proof.Machine.execPatternReadDataEnd b s
  | .recalSweepStart => Sys2Proof.Machine.execRecalSweepStart s
  | .stopComplete => Sys2Proof.Machine.execStopComplete s
  | .xptExpiry => Sys2Proof.Machine.execXptExpiry s
  | .holdoffExpiry => Sys2Proof.Machine.execHoldoffExpiry s
  | .scrubIntervalExpiry => Sys2Proof.Machine.execScrubIntervalExpiry s
  | .ret flips => Sys2Proof.Machine.execReturn flips s
  | .dataSent => Sys2Proof.Machine.execDataSent s
  | .transferResetEnd => Sys2Proof.Machine.execTransferResetEnd s
  | .resetPinRelease => Sys2Proof.Machine.execResetPinRelease s

end Sys2Proof.Machine
end

