-- ==== Sys2Proof/Machine/Step.lean ====
section
/-! DEFINITION. One step: the command at the front of the queue, or what the part does by itself (log 2). -/

namespace Sys2Proof.Machine

/-- What the part does on an empty queue: its next due event, or one mclk passes (log 2). -/
def idleStep (s : State) : Host.Outcome State Fault Refusal :=
  match ownEvent s with
  | some i => exec i s
  | none => .next (tick s)

/-- One step of the part. -/
def step (s : State) : Host.Outcome State Fault Refusal :=
  match s.pending with
  | [] => idleStep s
  | i :: rest => exec i { s with pending := rest }

/-- `s` with the command a word spells at the front of its queue. No row of the table gives bits, so no word spells one. -/
def State.withFetchWord (s : State) (nbits w : Nat) : State :=
  match decodeTableWord nbits w with
  | some i => { s with pending := i :: s.pending }
  | none => s

end Sys2Proof.Machine
end

