-- ==== Sys2Proof/Safety.lean ====
section
/-! DEFINITION. What a state of the part must satisfy: the laws the manual states of its queues, debts, bypass counts, slots and
buffers, as propositions about one state. -/

namespace Sys2Proof.Machine

/-- The reset input is released and no transfer reset is active: host writes are judged by their own rules (R177, R178). -/
abbrev Working (s : State) : Prop := s.pinHeld = false ∧ s.transferReset = false

/-- The stack's contents are in their one canonical form (log 5). -/
abbrev ContentsLaw (s : State) : Prop := contentsWf s.stack.contents = true

/-- The law of the debt (R74), with the hysteresis of R73 and R74: URGENT never stands below a debt of 3. -/
abbrev Renew.Lawful (r : Renew) : Prop :=
  -4 ≤ r.debt ∧ r.debt ≤ 8 ∧ (6 ≤ r.debt → r.urgent = true) ∧ (r.urgent = true → 3 ≤ r.debt)

/-- Every layer's debt is lawful. -/
abbrev DebtLaw (s : State) : Prop := ∀ l : Fin 2, Renew.Lawful s.renews[l]

/-- An entry's bypass count never exceeds its cap, and the entry is overdue exactly when the count has reached it (R23, R40). -/
abbrev Entry.Lawful (e : Entry) : Prop := e.bypass ≤ e.cap ∧ (e.overdue = true ↔ e.bypass = e.cap)

/-- The bypass law of the waiting entries, and the range of BYPASS_CAP (R39, R40). -/
abbrev BypassLaw (s : State) : Prop := 1 ≤ s.bypassCap ∧ s.bypassCap ≤ 63 ∧ ∀ e ∈ s.paq, Entry.Lawful e

/-- The bounds of the queues: 24 waiting accesses (R25), 32 completion records (R167), 8 submissions of a channel (R94), 32
words of a port (R131), four OPENs in a window list (R7). -/
abbrev CapacityLaw (s : State) : Prop :=
  s.paq.length ≤ 24 ∧ s.cq.queue.length ≤ 32 ∧ (∀ c : Fin 5, s.channels[c].queue.length ≤ 8)
    ∧ (∀ p : Fin 4, s.ports[p].fifo.length ≤ 32) ∧ ∀ l : Fin 2, s.layerRecords[l].openWindow.length ≤ 4

/-- The states in which a channel has a current descriptor (R106, R107). -/
def ChannelState.isBusy : ChannelState → Bool
  | .run | .postWait | .cancelling => true
  | .off | .idle | .halted => false

/-- The owner law (R91): a slot is TAKEN by a channel exactly when it stands in that channel's queue, and it stands there once;
it is RUNNING on a channel exactly when it is that channel's current slot; a channel has a current slot exactly in RUN,
POST_WAIT and CANCELLING. -/
abbrev OwnerLaw (s : State) : Prop :=
  (∀ c : Fin 5, ∀ k : Fin 64,
      (k ∈ s.channels[c].queue ↔ (s.slots[k].owner = .taken ∧ s.slots[k].holder = some c))
      ∧ (s.channels[c].current = some k ↔ (s.slots[k].owner = .running ∧ s.slots[k].holder = some c)))
    ∧ (∀ c : Fin 5, s.channels[c].queue.Nodup ∧ (s.channels[c].current.isSome = s.channels[c].state.isBusy))
    ∧ ∀ k : Fin 64, s.slots[k].owner = .host ↔ s.slots[k].holder = none

/-- The waiting entries stand in the order of their admission, and no two have the same age (R25). -/
abbrev AgeLaw (s : State) : Prop := s.paq.Pairwise (fun e f => e.id < f.id) ∧ ∀ e ∈ s.paq, e.id < s.nextEntry

/-- The accesses, waiting or issued, that hold a WDB slot. -/
def wdbHolders (s : State) (i : Fin 16) : Nat :=
  (s.paq.filter fun e => e.buffer = .wdb i).length + (s.issued.filter fun e => e.buffer = .wdb i).length

/-- A buffer is a WDB slot exactly for a write (R23). -/
def bufferFits : Kind → Buffer → Bool
  | .write, .wdb _ => true
  | .read, .wdb _ => false
  | .write, _ => false
  | .read, _ => true

/-- The WDB law (R35): the slots in use are exactly the slots held by writes that are waiting or issued, one slot per access. -/
abbrev WdbLaw (s : State) : Prop :=
  AgeLaw s ∧ (∀ e ∈ s.paq, bufferFits e.kind e.buffer = true) ∧ (∀ e ∈ s.issued, bufferFits e.kind e.buffer = true)
    ∧ ∀ i : Fin 16, wdbHolders s i = if s.wdb[i].isSome then 1 else 0

end Sys2Proof.Machine
end

