-- ==== Sys2Proof/Certificates/Slice0/Obligations.lean ====
section
/-! DEFINITION. The statements for the provers. Each says what a rule of spec/ says of a command, of the scheduler, or of every
step; a statement about a command's effect gives the next state whole, so that it says as well what stays unchanged. -/

open Sys2Proof Sys2Proof.Machine

/-! ### The machine -/

/-- A step takes the command at the front of the queue and runs it on the state with the rest of the queue. With nothing
waiting, the part's own next due event runs; with none due, one mclk passes (log 2: the model's choice). In an mclk the count
rises by one, a new command slot begins, every running timer falls by one, the scrub's interval timer only under its conditions,
and nothing else changes; while the reset pin is held none passes (R3, R5, R63, R72, R149, R171). -/
def Obligations.StepTakesTheFrontCommand : Prop :=
  (∀ (c : Instr) (s : State), step { s with pending := c :: s.pending } = exec c s)
    ∧ (∀ s : State, s.pending = [] →
    (∀ i, ownEvent s = some i → step s = exec i s) ∧ (ownEvent s = none → step s = .next (tick s)))
    ∧ (∀ s : State, s.pinHeld = true → tick s = s)
    ∧ ∀ s : State, s.pinHeld = false →
      let down := fun t : Option Nat => t.map fun n => n - 1
      let scrubRuns := s.scrub.enable = true ∧ s.port.state = .online ∧ s.port.stopPending = false
        ∧ s.scrub.record = .empty ∧ s.scrub.offered = none
      ∃ t, tick s = t ∧ t.mclk = s.mclk + 1 ∧ t.slotTaken = false
        ∧ (∀ b : Fin 32, t.banks[b] =
            { s.banks[b] with
              idle := match s.banks[b].idle with
                | .running n => .running (n - 1)
                | x => x })
        ∧ (∀ l : Fin 2, t.layerRecords[l] =
            { s.layerRecords[l] with renewing := down s.layerRecords[l].renewing })
        ∧ (∀ l : Fin 2, t.renews[l] = { s.renews[l] with timer := down s.renews[l].timer })
        ∧ t.port = { s.port with settle := down s.port.settle, xpt := down s.port.xpt }
        ∧ t.cq = { s.cq with timer := down s.cq.timer }
        ∧ (scrubRuns → t.scrub = { s.scrub with timer := down s.scrub.timer }) ∧ (¬ scrubRuns → t.scrub = s.scrub)
        ∧ t = { s with
            mclk := t.mclk, slotTaken := t.slotTaken, banks := t.banks, layerRecords := t.layerRecords
            renews := t.renews, port := t.port, cq := t.cq, scrub := t.scrub }

/-- Every command ends in a next state, whatever the state, and leaves the waiting commands as they are. A row that names an event
of the part changes nothing while its event is not due: the timers, the ends of data phases, a word's placement and the end of a
transfer reset here, the others at the statements about them. That such a row completes without effect (log 3), and that the
resets leave the waiting commands (log 20), are the model's choices. -/
def Obligations.CommandsCompleteAndKeepTheQueue : Prop :=
  (∀ (i : Instr) (s : State), ∃ t, exec i s = .next t ∧ t.pending = s.pending)
    ∧ ∀ s : State, s.pinHeld = false →
    (∀ l : Fin 2, s.renews[l].timer ≠ some 0 → exec (.renewTimerExpiry l) s = .next s)
    ∧ (s.port.state ≠ .starting ∨ s.port.settle ≠ some 0 → exec .settleExpiry s = .next s)
    ∧ (∀ beats, (∀ tap ends, s.port.sweep = .inFlight tap ends → s.mclk < ends) →
        exec (.patternReadDataEnd beats) s = .next s)
    ∧ (s.cq.timer ≠ some 0 → exec .holdoffExpiry s = .next s)
    ∧ (s.scrub.timer ≠ some 0 ∨ s.scrub.enable = false ∨ s.port.state ≠ .online ∨ s.port.stopPending = true
        ∨ s.scrub.record ≠ .empty ∨ s.scrub.offered ≠ none → exec .scrubIntervalExpiry s = .next s)
    ∧ (∀ flips, (∀ e rest, s.issued = e :: rest → e.kind = .write ∨ s.mclk < e.ends) → exec (.ret flips) s = .next s)
    ∧ ((∀ e rest, s.issued = e :: rest → e.kind = .read ∨ s.mclk < e.ends) → exec .dataSent s = .next s)
    ∧ (∀ p : Fin 4,
        let ch := s.channels[(⟨p.val, by omega⟩ : Fin 5)]
        ch.state ≠ .run ∨ 32 ≤ s.ports[p].fifo.length ∨ (∀ i : Fin 8, isFilledWith ch.delivery ch.returns[i] = false)
          ∨ (∀ k, ch.current = some k → s.slots[k].op ≠ .outbound) → exec (.wordPlacement p) s = .next s)
    ∧ (s.transferReset = false ∨ s.issued ≠ [] → exec .transferResetEnd s = .next s)

/-- DEVICE_RESET and RESET_PIN set every item to its device reset value; the release of the pin changes nothing else. While the
pin is held no command but its release has an effect, reads return 0, and the interrupt request line and the ready outputs are
inactive (R140, R175, R177, R183). The model's own choices in it: the release of a pin
that is not held does nothing (log 3), the device reset values of the host data, the entry counter, the bus and the stack's mode
(log 1), that mode unknown just after a PARK too (log 29), and what is kept over a device reset, the waiting commands and the counters of free values (log 20). -/
def Obligations.DeviceResetAndHeldPin : Prop :=
  (∀ s : State, s.pinHeld = false →
    let t : State :=
      { State.reset with
        pending := s.pending, freeCount := s.freeCount
        stack := { contents := [], epoch := s.stack.epoch + 1, latencies := none, mode := .unknown } }
    exec .deviceReset s = .next t ∧ exec .resetPin s = .next { t with pinHeld := true }
      ∧ exec .resetPinRelease s = .next s)
    ∧ (∀ s : State, s.pinHeld = true →
    (∀ i : Instr, i ≠ .resetPinRelease → exec i s = .next s)
      ∧ exec .resetPinRelease s = .next { s with pinHeld := false }
      ∧ (∀ index, readRegister s index = 0#16) ∧ s.irqLine = false ∧ ∀ p, s.portReady p = false)

/-- The device reset at the pending access queue, the write data buffer and the arbiter (R45). -/
def Obligations.DeviceResetOfTheQueue : Prop :=
  ∀ s : State, s.pinHeld = false →
    ∃ t, exec .deviceReset s = .next t
      ∧ t.paq = [] ∧ t.issued = [] ∧ (∀ i : Fin 16, t.wdb[i] = none)
      ∧ readRegister t 0x74#8 = 0#16 ∧ readRegister t 0x75#8 = 0#16 ∧ readRegister t 0x76#8 = 0#16
      ∧ t.arbiter.turn = 0 ∧ t.arbiter.remaining = 2 ∧ t.arbiter.scrubWait = 0 ∧ t.bypassCap = 16
      ∧ t.dataBus = { ends := none, last := none }
      ∧ (∀ c : Fin 5, t.channels[c] = Channel.reset) ∧ t.window = Window.reset ∧ t.scrub = Scrub.reset
      ∧ t.port.state = .offline ∧ nextSource t = none

/-- The values the rules give the part's items for a device reset; the laws of Safety.lean hold there (the contents' form among
them is the model's own, log 5; the reset values the manual does not give are in log 1 and not stated here). -/
def Obligations.ResetValues : Prop :=
  let r := State.reset
  (r.layers = 2 ∧ r.bypassCap = 16 ∧ r.rowPolicy = .keep ∧ r.idleShut = 32 ∧ r.renewEn = true ∧ r.protectEn = true
      ∧ r.minWin = 4 ∧ r.cq.threshold = 1 ∧ r.cq.holdoff = 0 ∧ r.scrub.interval = 64 ∧ r.scrub.enable = false)
    ∧ (r.param .a2c = 11 ∧ r.param .sht = 11 ∧ r.param .opm = 28 ∧ r.param .orc = 39 ∧ r.param .osn = 6
      ∧ r.param .osf = 4 ∧ r.param .own = 24 ∧ r.param .csn = 6 ∧ r.param .csf = 4 ∧ r.param .w2rn = 8
      ∧ r.param .w2rf = 3 ∧ r.param .r2w = 8 ∧ r.param .r2s = 6 ∧ r.param .wrs = 12 ∧ r.param .rnw = 280
      ∧ r.param .lsw = 2 ∧ r.param .rdl = 11 ∧ r.param .wdl = 9 ∧ r.param .ri = 488 ∧ r.param .settle = 200
      ∧ r.param .xpt = 300)
    ∧ (∀ b : Fin 32, r.banks[b].state = .closed ∧ r.banks[b].row = none ∧ r.banks[b].lastOpen = none
      ∧ r.banks[b].lastShut = none ∧ r.banks[b].lastRead = none ∧ r.banks[b].writeEnd = none
      ∧ r.banks[b].autoShut = false ∧ r.banks[b].idle = .stopped)
    ∧ (∀ c : Fin 8, r.clusters[c].lastOpen = none ∧ r.clusters[c].lastColumn = none)
    ∧ (∀ l : Fin 2, r.layerRecords[l].openWindow = [] ∧ r.layerRecords[l].lastColumn = none)
    ∧ r.dataBus.ends = none ∧ r.dataBus.last = none
    ∧ (∀ l : Fin 2, r.renews[l].timer = none ∧ r.renews[l].debt = 0 ∧ r.renews[l].urgent = false
      ∧ r.renews[l].count = 0 ∧ r.renews[l].overrun = false ∧ r.layerRecords[l].renewing = none)
    ∧ (∀ k : Fin 64, r.slots[k].owner = .host ∧ r.slots[k].holder = none ∧ r.slots[k].op = .inbound
      ∧ r.slots[k].units = 0 ∧ r.slots[k].link = none ∧ r.slots[k].notify = false ∧ r.slots[k].result = .none
      ∧ r.slots[k].doneUnits = 0 ∧ r.slots[k].addr = 0 ∧ r.slots[k].dest = 0 ∧ r.slots[k].pattern = 0
      ∧ r.slots[k].tag = 0 ∧ r.slots[k].stopOnMark = false ∧ r.slots[k].markAtEnd = false)
    ∧ (∀ c : Fin 5, r.channels[c].state = .off ∧ r.channels[c].queue = [] ∧ r.channels[c].current = none
      ∧ r.channels[c].weight = 2 ∧ r.channels[c].boundsBase = 0 ∧ r.channels[c].boundsLimit = 16384
      ∧ r.channels[c].lastRefused = none ∧ r.channels[c].runMode = none ∧ r.channels[c].nextAddress = 0
      ∧ r.channels[c].unitsLeft = 0 ∧ r.channels[c].nextSequence = 0 ∧ r.channels[c].delivery = 0
      ∧ r.channels[c].stopPoint = none ∧ r.channels[c].unitsReached = 0 ∧ r.channels[c].outstanding = 0
      ∧ r.channels[c].pendingRecord = none ∧ r.channels[c].offered = none
      ∧ ∀ i : Fin 8, r.channels[c].returns[i] = .free)
    ∧ (∀ p : Fin 4, r.ports[p].direction = .inward ∧ r.ports[p].enable = false ∧ r.ports[p].fifo = []
      ∧ r.ports[p].data = 0 ∧ r.ports[p].mark = false)
    ∧ (r.faults.first = none ∧ r.faults.more = false ∧ r.faults.uncorrectable = 0 ∧ r.faults.corrected = 0
      ∧ r.faults.lastCorrected = none)
    ∧ (r.scrub.timer = none ∧ r.scrub.pointer = 0 ∧ r.scrub.passCount = 0 ∧ r.scrub.offered = none
      ∧ r.scrub.record = .empty)
    ∧ (r.port.state = .offline ∧ r.port.stopPending = false
      ∧ ∀ i : Fin 5, r.port.lanes[i].passing = 0 ∧ r.port.lanes[i].windowStart = 0
        ∧ r.port.lanes[i].windowLength = 0 ∧ r.port.lanes[i].chosenTap = 0 ∧ r.port.lanes[i].captureDelay = 0
        ∧ r.port.lanes[i].result = .none)
    ∧ (r.cq.queue = [] ∧ r.cq.nextSequence = 0 ∧ r.cq.timer = none ∧ r.cq.latch = false ∧ r.flagView = 0 ∧ r.mask = 0
      ∧ r.irqLine = false)
    ∧ (r.refusal.code = .none ∧ r.refusal.index = 0 ∧ r.slotSelect = 0 ∧ r.page = false ∧ r.window.address = 0
      ∧ r.window.status = .idle ∧ (∀ i : Fin 16, r.window.buffer[i] = 0) ∧ r.transferReset = false
      ∧ r.captures = { firstFault := 0, lastCorrected := 0, scrubPointer := 0, scrubRecord := 0 })
    ∧ DebtLaw r ∧ BypassLaw r ∧ CapacityLaw r ∧ ContentsLaw r ∧ OwnerLaw r ∧ WdbLaw r

/-! ### Addresses and the stack's timing (01) -/

/-- The fields of an address cover it, each in its range, and its bank is numbered 16 × layer + 4 × bank + cluster. A waiting
access is to the bank, row and layer of its address (R1, R47). -/
def Obligations.AddressFields : Prop :=
  (∀ e : Entry, e.bank = bankOf e.address ∧ e.row = rowOf e.address ∧ e.layer = layerOf e.address)
    ∧ ∀ a : Nat, a < 2 ^ 30 →
    a = 536870912 * (layerOf a).val + 32768 * rowOf a + 8192 * bankFieldOf a + 2048 * clusterOf a + 32 * columnOf a
        + 16 * halfOf a + a % 16
      ∧ rowOf a < 16384 ∧ bankFieldOf a < 4 ∧ clusterOf a < 4 ∧ columnOf a < 64 ∧ halfOf a < 2
      ∧ burstOf a = a - 16 * halfOf a - a % 16
      ∧ (bankOf a).val = 16 * (layerOf a).val + 4 * bankFieldOf a + clusterOf a
      ∧ layerOfBank (bankOf a) = layerOf a
      ∧ (clusterOfBank (bankOf a)).val = 4 * (layerOf a).val + clusterOf a

/-- A SHUT is eligible exactly when the bank is OPEN, no auto-shut is pending, and the count has reached each of the three
times of R11 that is not cleared. It needs nothing else, and a SHUT of another bank one mclk before does not hold it back. -/
def Obligations.ShutEligibility : Prop :=
  (∀ (s : State) (b : Fin 32),
      shutEligible s b = true ↔
        s.banks[b].state = .openRow ∧ s.banks[b].autoShut = false
          ∧ (∀ t, s.banks[b].lastOpen = some t → t + s.param .opm ≤ s.mclk)
          ∧ (∀ t, s.banks[b].lastRead = some t → t + s.param .r2s ≤ s.mclk)
          ∧ ∀ t, s.banks[b].writeEnd = some t → t + s.param .wrs ≤ s.mclk)
    ∧ ∀ (s : State) (b d : Fin 32), d ≠ b → shutEligible s d = true →
        shutEligible { issueShut b s with mclk := s.mclk + 1 } d = true

/-- An OPEN is eligible exactly under the seven conditions of R9, and the scheduler proposes one only for the bank and row of a
waiting access. -/
def Obligations.OpenEligibility : Prop :=
  (∀ (s : State) (b : Fin 32),
      openEligible s b = true ↔
        s.fitted (layerOfBank b) = true ∧ s.banks[b].state = .closed
          ∧ (∀ t, s.banks[b].lastOpen = some t → t + s.param .orc ≤ s.mclk)
          ∧ (∀ t, s.banks[b].lastShut = some t → t + s.param .sht ≤ s.mclk)
          ∧ (∀ t, s.clusters[clusterOfBank b].lastOpen = some t → t + s.param .osn ≤ s.mclk)
          ∧ (∀ c : Fin 8, c ≠ clusterOfBank b → layerOfCluster c = layerOfBank b →
              ∀ t, s.clusters[c].lastOpen = some t → t + s.param .osf ≤ s.mclk)
          ∧ (s.layerRecords[layerOfBank b].openWindow.length < 4
              ∨ ∀ t, s.layerRecords[layerOfBank b].openWindow.head? = some t → t + s.param .own ≤ s.mclk)
          ∧ s.renews[layerOfBank b].urgent = false ∧ s.layerRecords[layerOfBank b].renewing = none
          ∧ (s.port.state = .online
              ∨ ((s.port.state = .parking ∨ s.port.state = .recalibrating) ∧ s.paq ≠ [])))
    ∧ ∀ (s : State) (b : Fin 32) (row : Nat), choose s = some (.openRow b row) →
        openEligible s b = true ∧ ∃ e ∈ s.paq, e.bank = b ∧ e.row = row

/-- A waiting access is column-eligible exactly under the conditions of R13 and R49. -/
def Obligations.ColumnEligibility : Prop :=
  ∀ (s : State) (e : Entry),
    columnEligible s e = true ↔
      s.banks[e.bank].state = .openRow ∧ s.banks[e.bank].row = some e.row ∧ s.banks[e.bank].autoShut = false
        ∧ (∀ t, s.clusters[clusterOfBank e.bank].lastColumn = some t → t + s.param .csn ≤ s.mclk)
        ∧ (∀ c : Fin 8, c ≠ clusterOfBank e.bank →
            ∀ t, s.clusters[c].lastColumn = some t → t + s.param .csf ≤ s.mclk)
        ∧ (e.kind = .read → ∀ (b : Fin 32) (t : Nat), s.banks[b].writeEnd = some t →
            t + (if clusterOfBank b = clusterOfBank e.bank then s.param .w2rn else s.param .w2rf) ≤ s.mclk)
        ∧ (e.kind = .write → ∀ (l : Fin 2) (t : Nat), s.layerRecords[l].lastColumn = some (t, .read) →
            t + s.param .r2w ≤ s.mclk)
        ∧ (∀ t, s.dataBus.ends = some t →
            t + (match s.dataBus.last with
              | some (l, _) => if l = layerOfCluster (clusterOfBank e.bank) then 0 else s.param .lsw
              | none => 0)
              ≤ s.mclk + (match e.kind with
                | .read => s.param .rdl
                | .write => s.param .wdl))
        ∧ e.predecessors = []
        ∧ (∀ o, (s.paq.find? fun x => x.overdue) = some o → e.id ≤ o.id)
        ∧ s.renews[e.layer].urgent = false ∧ (classes s).accesses = true

/-! ### The command scheduler (03) -/

/-- COMMAND_SLOT: an mclk has one slot; it is judged with every due bank transition in effect, and carries the chosen command
or stays idle (R5, R46; log 4). What those transitions are: the expiries of BankEvents, bank by bank and then layer by layer;
what they give a bank that is due to open, to be auto-shut or to close, every other bank, and a layer; and nothing else
(R8, R17, R19, R63; log 4). What each choice puts on the command bus: the bank and row of an OPEN, the bank of a SHUT, the kind,
bank, column, size, half and auto-shut of a READ or WRITE, the layer of a RENEW (R5, R62, R64). The issue of an OPEN, a SHUT, a RENEW, a PATTERN READ and a PARK: the records each changes, and
nothing else (R10, R12, R19, R20, R21, R74, R83). -/
def Obligations.CommandSlotIssues : Prop :=
  (∀ s : State, s.pinHeld = false →
    (s.slotTaken = true → exec .commandSlot s = .next s)
      ∧ (s.slotTaken = false →
          (∀ c, choose (settleBanks s) = some c →
            exec .commandSlot s = .next
              { issue c (settleBanks s) with commandBus := some (busCommand (settleBanks s) c), slotTaken := true })
          ∧ (choose (settleBanks s) = none →
            exec .commandSlot s = .next { settleBanks s with commandBus := none, slotTaken := true })))
    ∧ (∀ s : State, s.pinHeld = false →
      let run := fun (t : State) (i : Instr) => match exec i t with
        | .next u => u
        | _ => t
      settleBanks s =
        run (run ((List.finRange 32).foldl (fun t b =>
            run (run (run (run t (.a2cExpiry b)) (.autoShut b)) (.shtExpiry b)) (.idleTimerExpiry b)) s)
          (.renewingTimerExpiry 0)) (.renewingTimerExpiry 1))
    ∧ (∀ s : State,
      (∀ b : Fin 32,
        let r := s.banks[b]
        let t := (settleBanks s).banks[b]
        let opens := r.state = .opening ∧ ∀ u, r.lastOpen = some u → u + s.param .a2c ≤ s.mclk
        let closes := r.state = .shutting ∧ ∀ u, r.lastShut = some u → u + s.param .sht ≤ s.mclk
        let idle := if r.idle = .running 0 then IdleTimer.expired else r.idle
        (opens → r.autoShut = false →
            t = { r with state := .openRow, idle := if s.idleShut = 0 then .stopped else .running s.idleShut })
        ∧ (∀ u, r.state = .openRow → r.autoShut = true → earliestShut s r = some u → u ≤ s.mclk →
            t = { r with
              state := if u + s.param .sht ≤ s.mclk then .closed else .shutting
              row := none, lastShut := some u, autoShut := false, idle := .stopped })
        ∧ (closes → t = { r with state := .closed, idle := idle })
        ∧ (¬ opens → ¬ closes →
            (r.state = .openRow → r.autoShut = true → ∃ u, earliestShut s r = some u ∧ s.mclk < u) →
            t = { r with idle := idle }))
      ∧ (∀ l : Fin 2, (settleBanks s).layerRecords[l] =
          { s.layerRecords[l] with
            renewing := if s.layerRecords[l].renewing = some 0 then none else s.layerRecords[l].renewing })
      ∧ settleBanks s =
          { s with banks := (settleBanks s).banks, layerRecords := (settleBanks s).layerRecords })
    ∧ (∀ s : State,
      (∀ b row, busCommand s (.openRow b row) = .openRow b row) ∧ (∀ b, busCommand s (.shut b) = .shut b)
      ∧ (∀ e : Entry, ∃ auto : Bool,
          busCommand s (.column e) =
            .column e.kind (bankOf e.address) (e.address / 32 % 64) e.size (e.address / 16 % 2) auto
          ∧ (auto = true ↔ s.rowPolicy = .shutAfterUse
            ∧ ¬ ∃ f ∈ s.paq, f.id ≠ e.id ∧ f.bank = e.bank ∧ f.row = e.row))
      ∧ (∀ l, busCommand s (.renew l) = .renew l) ∧ busCommand s .patternRead = .patternRead
      ∧ busCommand s .park = .park)
    ∧ ((∀ (b : Fin 32) (row : Nat) (s : State),
      issue (.openRow b row) s =
        { s with
          banks := s.banks.set b { s.banks[b] with state := .opening, row := some row, lastOpen := some s.mclk }
          clusters := s.clusters.set (clusterOfBank b) { s.clusters[clusterOfBank b] with lastOpen := some s.mclk }
          layerRecords := s.layerRecords.set (layerOfBank b)
            { s.layerRecords[layerOfBank b] with
              openWindow :=
                (if s.layerRecords[layerOfBank b].openWindow.length < 4 then s.layerRecords[layerOfBank b].openWindow
                  else s.layerRecords[layerOfBank b].openWindow.drop 1) ++ [s.mclk] } })
    ∧ (∀ (b : Fin 32) (s : State),
      issue (.shut b) s =
        { s with
          banks := s.banks.set b
            { s.banks[b] with
              state := .shutting, row := none, lastShut := some s.mclk, autoShut := false, idle := .stopped } })
    ∧ (∀ (l : Fin 2) (s : State),
      issue (.renew l) s =
        { s with
          layerRecords := s.layerRecords.set l { s.layerRecords[l] with renewing := some (s.param .rnw) }
          renews := s.renews.set l
            { s.renews[l] with
              debt := s.renews[l].debt - 1, count := s.renews[l].count + 1
              urgent := if s.renews[l].debt - 1 = 2 then false else s.renews[l].urgent } })
    ∧ (∀ (tap : Fin 32) (s : State), s.port.sweep = .requested tap →
      issue .patternRead s =
        { s with
          clusters := s.clusters.set 0 { s.clusters[(0 : Fin 8)] with lastColumn := some s.mclk }
          layerRecords := s.layerRecords.set 0
            { s.layerRecords[(0 : Fin 2)] with lastColumn := some (s.mclk, .read) }
          dataBus := { ends := some (s.mclk + s.param .rdl + 4), last := some (0, .read) }
          port := { s.port with sweep := .inFlight tap (s.mclk + s.param .rdl + 4) } })
    ∧ ∀ s : State, ∃ t, issue .park s = t
        ∧ t.port = { s.port with state := .parked } ∧ t.stack = { s.stack with mode := .parked }
        ∧ (∀ l : Fin 2, t.renews[l] = { s.renews[l] with timer := none }) ∧ t.flag .parkDone = true
        ∧ t = { s with renews := t.renews, port := t.port, stack := t.stack, flags := (s.raise .parkDone).flags })

/-- The issue of a column command for a waiting access: the bank, cluster, layer and data bus records, the waiting entries (the
access leaves; older entries are passed over once more, younger ones lose it as a predecessor), the issued list, and nothing
else (R14, R15, R38, R40, R42, R63, R64). -/
def Obligations.IssueColumn : Prop :=
  ∀ (e : Entry) (s : State),
    let start := s.mclk + (match e.kind with
      | .read => s.param .rdl
      | .write => s.param .wdl)
    let ends := start + (match e.size with
      | .full => 4
      | .half => 2)
    let auto := s.rowPolicy = .shutAfterUse
      ∧ ¬ ∃ f ∈ s.paq, f.id ≠ e.id ∧ f.bank = e.bank ∧ f.row = e.row
    ∃ t, issue (.column e) s = t
      ∧ t.dataBus = { ends := some ends, last := some (layerOfBank e.bank, e.kind) }
      ∧ t.clusters = s.clusters.set (clusterOfBank e.bank)
          { s.clusters[clusterOfBank e.bank] with lastColumn := some s.mclk }
      ∧ t.layerRecords = s.layerRecords.set (layerOfBank e.bank)
          { s.layerRecords[layerOfBank e.bank] with lastColumn := some (s.mclk, e.kind) }
      ∧ (∀ b : Fin 32, b ≠ e.bank → t.banks[b] = s.banks[b])
      ∧ t.banks[e.bank].state = s.banks[e.bank].state ∧ t.banks[e.bank].row = s.banks[e.bank].row
      ∧ t.banks[e.bank].lastOpen = s.banks[e.bank].lastOpen ∧ t.banks[e.bank].lastShut = s.banks[e.bank].lastShut
      ∧ t.banks[e.bank].lastRead = (if e.kind = .read then some s.mclk else s.banks[e.bank].lastRead)
      ∧ t.banks[e.bank].writeEnd = (if e.kind = .write then some ends else s.banks[e.bank].writeEnd)
      ∧ (auto → t.banks[e.bank].autoShut = true ∧ t.banks[e.bank].idle = .stopped)
      ∧ (¬ auto → t.banks[e.bank].autoShut = s.banks[e.bank].autoShut
          ∧ t.banks[e.bank].idle = if s.idleShut = 0 then .stopped else .running s.idleShut)
      ∧ (∀ f : Entry, f ∈ t.paq ↔ ∃ g ∈ s.paq, g.id ≠ e.id
          ∧ f = { g with
              predecessors := g.predecessors.filter fun p => p ≠ e.id
              bypass := if g.id < e.id ∧ g.overdue = false then g.bypass + 1 else g.bypass
              overdue := g.overdue || decide (g.id < e.id ∧ g.overdue = false ∧ g.cap ≤ g.bypass + 1) })
      ∧ (t.paq.map fun f => f.id) = (s.paq.map fun f => f.id).filter (fun i => i ≠ e.id)
      ∧ t.issued = s.issued ++
          [{ source := e.source, kind := e.kind, size := e.size, address := e.address, buffer := e.buffer,
             sequence := e.sequence, ends := ends }]
      ∧ t = { s with
          dataBus := t.dataBus, clusters := t.clusters, layerRecords := t.layerRecords, banks := t.banks
          paq := t.paq, issued := t.issued }

/-- The laws of the chosen command: an OPEN goes to a CLOSED bank of a layer that is neither URGENT nor RENEWING; a RENEW to a
layer whose 16 banks are CLOSED, with RENEW_EN on; a READ or WRITE for a waiting access to a bank OPEN on its row, none of whose
predecessors waits, no older entry being overdue, and only in ONLINE, PARKING or RECALIBRATING (R38, R41, R48, R56, R79). -/
def Obligations.ChosenCommandIsLegal : Prop :=
  ∀ s : State,
    (∀ b row, choose s = some (.openRow b row) →
      s.banks[b].state = .closed ∧ s.renews[layerOfBank b].urgent = false
        ∧ s.layerRecords[layerOfBank b].renewing = none)
    ∧ (∀ l, choose s = some (.renew l) →
      s.renewEn = true ∧ s.layerRecords[l].renewing = none ∧ s.fitted l = true
        ∧ ∀ b : Fin 32, layerOfBank b = l → s.banks[b].state = .closed)
    ∧ (∀ b, choose s = some (.shut b) → s.banks[b].state = .openRow ∧ s.banks[b].autoShut = false)
    ∧ (∀ e, choose s = some (.column e) →
      e ∈ s.paq ∧ s.banks[e.bank].state = .openRow ∧ s.banks[e.bank].row = some e.row ∧ e.predecessors = []
        ∧ (∀ o, (s.paq.find? fun x => x.overdue) = some o → e.id ≤ o.id)
        ∧ (s.port.state = .online ∨ s.port.state = .parking ∨ s.port.state = .recalibrating))
    ∧ (∀ c, choose s = some c →
      s.port.state ≠ .offline ∧ s.port.state ≠ .starting ∧ s.port.state ≠ .fault ∧ s.port.state ≠ .parked
        ∧ s.port.state ≠ .unparking)

/-- Classes 1 and 3: an URGENT layer's SHUT or RENEW goes before everything, layer 0 before layer 1, the lowest bank first; a layer
not fitted, not URGENT, or with neither an eligible SHUT nor an eligible RENEW has no candidate in class 1. Class 3 holds a
candidate exactly while a waiting access is column-eligible; where neither class 1 nor the overdue service of class 2 has a
candidate, a row hit goes before any other command; among row hits the direction of the last burst is preferred, then age
(R47, R50, R54). -/
def Obligations.UrgentAndRowHitClasses : Prop :=
  ∀ s : State,
    (∀ c, (classes s).urgent = true → urgentOf s 0 = some c → choose s = some c)
    ∧ (∀ c, (classes s).urgent = true → urgentOf s 0 = none → urgentOf s 1 = some c → choose s = some c)
    ∧ (∀ l : Fin 2, (∀ b : Fin 32, layerOfBank b = l → shutEligible s b = false) → s.fitted l = true →
        s.renews[l].urgent = true → renewEligible s l = true → urgentOf s l = some (.renew l))
    ∧ (∀ l : Fin 2, ∀ b : Fin 32, s.fitted l = true → s.renews[l].urgent = true → layerOfBank b = l →
        shutEligible s b = true → (∀ d : Fin 32, layerOfBank d = l → shutEligible s d = true → b ≤ d) →
        urgentOf s l = some (.shut b))
    ∧ (∀ l : Fin 2, s.fitted l = false ∨ s.renews[l].urgent = false
        ∨ ((∀ b : Fin 32, layerOfBank b = l → shutEligible s b = false) ∧ renewEligible s l = false) →
        urgentOf s l = none)
    ∧ class1 s = (match urgentOf s 0 with
      | some c => some c
      | none => urgentOf s 1)
    ∧ (∀ e ∈ s.paq, columnEligible s e = true →
        (classes s).accesses = true ∧ ∃ f, class3 s = some (.column f))
    ∧ ((∀ e ∈ s.paq, columnEligible s e = false) → class3 s = none)
    ∧ (∀ e ∈ s.paq, class1 s = none → class2 s = none → columnEligible s e = true →
        ∃ f, choose s = some (.column f))
    ∧ (∀ e, s.paq.Pairwise (fun e f => e.id < f.id) → class3 s = some (.column e) →
        e ∈ s.paq ∧ columnEligible s e = true
          ∧ (∀ f ∈ s.paq, columnEligible s f = true → f.kind = e.kind → e.id ≤ f.id)
          ∧ (∀ l k, s.dataBus.last = some (l, k) → e.kind ≠ k →
              ∀ f ∈ s.paq, columnEligible s f = true → f.kind ≠ k)
          ∧ (s.dataBus.last = none → ∀ f ∈ s.paq, columnEligible s f = true → e.id ≤ f.id))
    ∧ ((classes s).accesses = true → class1 s = none → class2 s = none → ∀ c, class3 s = some c → choose s = some c)

/-- The order of the classes and the port states in which each applies; when classes 2, 4, 5, 6 and 7, the PATTERN READ and the
PARK hold a command, and which (R18, R20, R21, R46 to R48, R52, R56 to R61). -/
def Obligations.ClassOrder : Prop :=
  ∀ s : State,
    let k := classes s
    let older := s.paq.Pairwise (fun e f => e.id < f.id)
    let conflict := fun e : Entry =>
      shutEligible s e.bank = true ∧ s.banks[e.bank].row ≠ some e.row ∧ ∀ f ∈ s.paq, f.bank = e.bank → e.id ≤ f.id
    let ended := s.paq = [] ∧ (s.port.state = .parking ∨ s.port.state = .recalibrating
      ∨ (s.port.state = .online ∧ s.port.stopPending = true))
    let idle := fun b : Fin 32 => s.banks[b].idle = .expired
      ∧ ∀ e ∈ s.paq, ¬ (e.bank = b ∧ s.banks[b].row = some e.row)
    let quiet := fun l : Fin 2 => s.renews[l].urgent = false ∧ (∀ e ∈ s.paq, e.layer ≠ l) ∧ renewEligible s l = true
      ∧ ((1 ≤ s.renews[l].debt ∧ k.relaxed = true)
        ∨ (-3 ≤ s.renews[l].debt ∧ s.renews[l].debt ≤ 0 ∧ k.pullIn = true))
    choose s =
        ([(k.urgent, class1 s), (k.accesses, class2 s), (k.accesses, class3 s), (k.accesses, class4 s),
          (k.accesses, class5 s), (k.shuts, class6 s), (true, class7 s),
          (k.pattern && patternEligible s, some Choice.patternRead),
          (k.park && parkEligible s, some Choice.park)].filterMap fun x => if x.1 then x.2 else none).head?
    ∧ (s.port.state = .offline ∨ s.port.state = .starting ∨ s.port.state = .fault ∨ s.port.state = .parked
        ∨ s.port.state = .unparking → k = {})
    ∧ (s.port.state = .calibrating → k = { urgent := true, pattern := true })
    ∧ (s.port.state = .online →
        (s.port.stopPending = false ∨ s.paq ≠ [] →
          k = { urgent := true, accesses := true, shuts := true, relaxed := true, pullIn := true })
        ∧ (s.port.stopPending = true → s.paq = [] → k = { urgent := true, shuts := true }))
    ∧ (s.port.state = .parking →
        (s.paq ≠ [] → k = { urgent := true, accesses := true, shuts := true, relaxed := true })
        ∧ (s.paq = [] → k = { urgent := true, shuts := true, relaxed := true, park := true }))
    ∧ (s.port.state = .recalibrating →
        (s.port.sweep ≠ .none → k = { urgent := true, pattern := true })
        ∧ (s.port.sweep = .none → s.paq = [] → k = { urgent := true, shuts := true })
        ∧ (s.port.sweep = .none → s.paq ≠ [] →
          k = { urgent := true, accesses := true, shuts := true, relaxed := true, pullIn := true }))
    ∧ ((s.paq.find? fun x => x.overdue) = none → class2 s = none)
    ∧ (∀ o, (s.paq.find? fun x => x.overdue) = some o →
        let b := s.banks[o.bank]
        (b.state = .closed → class2 s = if openEligible s o.bank then some (.openRow o.bank o.row) else none)
        ∧ (b.state = .openRow → b.row = some o.row → class2 s = if columnEligible s o then some (.column o) else none)
        ∧ (b.state = .openRow → b.row ≠ some o.row →
            (shutEligible s o.bank = true →
              (∀ f ∈ s.paq, f.id < o.id → ¬ (f.bank = o.bank ∧ b.row = some f.row)) →
              class2 s = some (.shut o.bank))
            ∧ (shutEligible s o.bank = false ∨ (∃ f ∈ s.paq, f.id < o.id ∧ f.bank = o.bank ∧ b.row = some f.row) →
              class2 s = none))
        ∧ (b.state = .opening ∨ b.state = .shutting ∨ (b.state = .openRow ∧ b.autoShut = true) → class2 s = none))
    ∧ ((∀ e ∈ s.paq, openEligible s e.bank = false) → class4 s = none)
    ∧ (∀ e ∈ s.paq, older → openEligible s e.bank = true →
        (∀ f ∈ s.paq, openEligible s f.bank = true → e.id ≤ f.id) → class4 s = some (.openRow e.bank e.row))
    ∧ ((∀ e ∈ s.paq, ¬ conflict e) → class5 s = none)
    ∧ (∀ e ∈ s.paq, older → conflict e → (∀ f ∈ s.paq, conflict f → e.id ≤ f.id) → class5 s = some (.shut e.bank))
    ∧ ((∀ b : Fin 32, shutEligible s b = true → ¬ ended ∧ ¬ idle b) → class6 s = none)
    ∧ (∀ b : Fin 32, shutEligible s b = true → ended ∨ idle b →
        (∀ d : Fin 32, d < b → shutEligible s d = true → ¬ ended ∧ ¬ idle d) → class6 s = some (.shut b))
    ∧ (quiet 0 → class7 s = some (.renew 0)) ∧ (¬ quiet 0 → quiet 1 → class7 s = some (.renew 1))
    ∧ (¬ quiet 0 → ¬ quiet 1 → class7 s = none)
    ∧ (∀ l : Fin 2, renewEligible s l = true ↔
        l.val < s.layers ∧ (∀ b : Fin 32, layerOfBank b = l → s.banks[b].state = .closed)
          ∧ s.layerRecords[l].renewing = none ∧ s.renewEn = true
          ∧ (s.port.state = .calibrating ∨ s.port.state = .online ∨ s.port.state = .parking
            ∨ s.port.state = .recalibrating))
    ∧ (patternEligible s = true ↔
        (∃ tap, s.port.sweep = .requested tap)
          ∧ (∀ (c : Fin 8) (t : Nat), s.clusters[c].lastColumn = some t →
              t + (if c = 0 then s.param .csn else s.param .csf) ≤ s.mclk)
          ∧ (∀ (b : Fin 32) (t : Nat), s.banks[b].writeEnd = some t →
              t + (if clusterOfBank b = 0 then s.param .w2rn else s.param .w2rf) ≤ s.mclk)
          ∧ (∀ t, s.dataBus.ends = some t →
              t + (match s.dataBus.last with
                | some (l, _) => if l = 0 then 0 else s.param .lsw
                | none => 0) ≤ s.mclk + s.param .rdl)
          ∧ s.layerRecords[(0 : Fin 2)].renewing = none)
    ∧ (parkEligible s = true ↔
        s.paq = [] ∧ s.issued = [] ∧ (∀ t, s.dataBus.ends = some t → t ≤ s.mclk)
          ∧ (∀ b : Fin 32, (layerOfBank b).val < s.layers → s.banks[b].state = .closed)
          ∧ (∀ l : Fin 2, l.val < s.layers → s.renews[l].debt ≤ 0)
          ∧ ∀ l : Fin 2, s.layerRecords[l].renewing = none)

/-- The expiries at the banks and layers: OPENING ends at A2C with the idle timer loaded, SHUTTING at SHT, an auto-shut takes
effect at the earliest shut time, the latest of the times of R11 that take part, an idle timer stays expired, a layer leaves
RENEWING (R8, R11, R17, R19, R63). An expiry that is not due changes nothing (log 3: the model's choice). -/
def Obligations.BankEvents : Prop :=
  ∀ (s : State), s.pinHeld = false →
    (∀ b : Fin 32, s.banks[b].state = .opening → (∀ t, s.banks[b].lastOpen = some t → t + s.param .a2c ≤ s.mclk) →
      exec (.a2cExpiry b) s = .next
        { s with
          banks := s.banks.set b
            { s.banks[b] with
              state := .openRow, idle := if s.idleShut = 0 then .stopped else .running s.idleShut } })
    ∧ (∀ b : Fin 32, s.banks[b].state = .shutting → (∀ t, s.banks[b].lastShut = some t → t + s.param .sht ≤ s.mclk) →
      exec (.shtExpiry b) s = .next { s with banks := s.banks.set b { s.banks[b] with state := .closed } })
    ∧ (∀ (b : Fin 32) (t : Nat), s.banks[b].state = .openRow → s.banks[b].autoShut = true →
        earliestShut s s.banks[b] = some t → t ≤ s.mclk →
      exec (.autoShut b) s = .next
        { s with
          banks := s.banks.set b
            { s.banks[b] with
              state := .shutting, row := none, lastShut := some t, autoShut := false, idle := .stopped } })
    ∧ (∀ b : Fin 32, s.banks[b].idle = .running 0 →
      exec (.idleTimerExpiry b) s = .next { s with banks := s.banks.set b { s.banks[b] with idle := .expired } })
    ∧ (∀ l : Fin 2, s.layerRecords[l].renewing = some 0 →
      exec (.renewingTimerExpiry l) s = .next
        { s with layerRecords := s.layerRecords.set l { s.layerRecords[l] with renewing := none } })
    ∧ (∀ (b : Fin 32) (t : Nat),
      let times := (s.banks[b].lastOpen.map fun u => u + s.param .opm).toList
        ++ (s.banks[b].lastRead.map fun u => u + s.param .r2s).toList
        ++ (s.banks[b].writeEnd.map fun u => u + s.param .wrs).toList
      earliestShut s s.banks[b] = some t ↔ t ∈ times ∧ ∀ u ∈ times, u ≤ t)
    ∧ (∀ b : Fin 32, s.banks[b].state ≠ .opening ∨ (∃ t, s.banks[b].lastOpen = some t ∧ s.mclk < t + s.param .a2c) →
      exec (.a2cExpiry b) s = .next s)
    ∧ (∀ b : Fin 32, s.banks[b].state ≠ .shutting ∨ (∃ t, s.banks[b].lastShut = some t ∧ s.mclk < t + s.param .sht) →
      exec (.shtExpiry b) s = .next s)
    ∧ (∀ b : Fin 32, s.banks[b].state ≠ .openRow ∨ s.banks[b].autoShut = false
        ∨ (∃ t, earliestShut s s.banks[b] = some t ∧ s.mclk < t) →
      exec (.autoShut b) s = .next s)
    ∧ (∀ b : Fin 32, s.banks[b].idle ≠ .running 0 → exec (.idleTimerExpiry b) s = .next s)
    ∧ ∀ l : Fin 2, s.layerRecords[l].renewing ≠ some 0 → exec (.renewingTimerExpiry l) s = .next s

/-! ### Renew (04) -/

/-- The table of R73: what the expiry of a layer's renew timer does at each debt. And an expiry and a RENEW that come together: at
the debts 8, 5 and 3 the order decides as R75 gives, elsewhere both orders leave the same layer; the renew count rises by one in
either order. -/
def Obligations.RenewTimerExpiry : Prop :=
  (∀ (l : Fin 2) (s : State), s.pinHeld = false → s.renews[l].timer = some 0 →
    let r := { s.renews[l] with timer := some (s.param .ri * 16) }
    (s.renews[l].debt < 5 → exec (.renewTimerExpiry l) s = .next
      { s with renews := s.renews.set l { r with debt := s.renews[l].debt + 1 } })
    ∧ (s.renews[l].debt = 5 → exec (.renewTimerExpiry l) s = .next
      { s with renews := s.renews.set l { r with debt := 6, urgent := true } })
    ∧ (s.renews[l].debt = 6 ∨ s.renews[l].debt = 7 → s.renews[l].urgent = true → exec (.renewTimerExpiry l) s = .next
      { s with renews := s.renews.set l { r with debt := s.renews[l].debt + 1, urgent := true } })
    ∧ (s.renews[l].debt = 8 → s.renews[l].urgent = true → exec (.renewTimerExpiry l) s = .next
      { s.raise .renewOverrun with renews := s.renews.set l { r with debt := 8, urgent := true, overrun := true } }))
    ∧ (∀ (l : Fin 2) (s : State), s.renews[l].timer = some 0 → Renew.Lawful s.renews[l] → -4 < s.renews[l].debt →
    let first := issue (.renew l) (renewTimerExpired l s)
    let second := renewTimerExpired l (issue (.renew l) s)
    (first.renews[l].count = s.renews[l].count + 1 ∧ second.renews[l].count = s.renews[l].count + 1)
      ∧ first.renews[l].debt = (if s.renews[l].debt = 8 then 7 else s.renews[l].debt)
      ∧ second.renews[l].debt = s.renews[l].debt
      ∧ (s.renews[l].debt = 8 →
          first.flag .renewOverrun = true ∧ first.renews[l].overrun = true ∧ first.renews[l].urgent = true
            ∧ second.flags = s.flags ∧ second.renews[l].overrun = s.renews[l].overrun
            ∧ second.renews[l].urgent = true)
      ∧ (s.renews[l].debt = 5 → s.renews[l].urgent = false →
          first.renews[l].urgent = true ∧ second.renews[l].urgent = false)
      ∧ (s.renews[l].debt = 3 → s.renews[l].urgent = true →
          first.renews[l].urgent = true ∧ second.renews[l].urgent = false)
      ∧ (s.renews[l].debt ≠ 8 → ¬ (s.renews[l].debt = 5 ∧ s.renews[l].urgent = false) →
          ¬ (s.renews[l].debt = 3 ∧ s.renews[l].urgent = true) →
          first.renews[l].debt = second.renews[l].debt ∧ first.renews[l].urgent = second.renews[l].urgent))

/-! ### Memory port control (09, 04) -/

/-- START: the tests of R157 in their order; a START that passes them all goes to STARTING with the settle timer loaded, and
changes nothing else. -/
def Obligations.StartCommand : Prop :=
  ∀ s : State, s.pinHeld = false →
    (s.transferReset = true → exec .start s = .next (s.refuse .resetBusy 0#8))
    ∧ (s.transferReset = false → s.port.state ≠ .offline → s.port.state ≠ .fault →
        exec .start s = .next (s.refuse .portState 0#8))
    ∧ (s.transferReset = false → (s.port.state = .offline ∨ s.port.state = .fault) →
        ¬ (s.param .opm + s.param .sht ≤ s.param .orc ∧ s.param .a2c ≤ s.param .opm ∧ 4 * s.param .osf ≤ s.param .own
          ∧ 4 * s.param .rnw ≤ s.param .ri * 16) → exec .start s = .next (s.refuse .timingInvalid 0#8))
    ∧ (s.transferReset = false → (s.port.state = .offline ∨ s.port.state = .fault) →
        s.param .opm + s.param .sht ≤ s.param .orc → s.param .a2c ≤ s.param .opm → 4 * s.param .osf ≤ s.param .own →
        4 * s.param .rnw ≤ s.param .ri * 16 →
        exec .start s = .next
          { s with port := { s.port with state := .starting, settle := some (s.param .settle * 256) } })

/-- SETTLE_EXPIRY: the latency setup, the records cleared, the sweep begun at tap 0, the renew timers of the fitted layers
started, the port CALIBRATING (R158, R159). PATTERN_READ_DATA_END below tap 31: the tap joins the passing taps of the calibrated
lanes that matched, and the next tap is set and requested (R159). A lane matches when its eight captured beats equal the
pattern's (log 7). -/
def Obligations.SweepSteps : Prop :=
  (∀ s : State, s.pinHeld = false → s.port.state = .starting → s.port.settle = some 0 →
    ∃ t, exec .settleExpiry s = .next t
      ∧ t.stack = { s.stack with latencies := some (s.param .rdl, s.param .wdl), mode := .ready }
      ∧ (∀ b : Fin 32, t.banks[b] = Bank.reset) ∧ (∀ c : Fin 8, t.clusters[c] = Cluster.reset)
      ∧ (∀ l : Fin 2, t.layerRecords[l] = LayerRecord.reset) ∧ t.dataBus = DataBus.reset
      ∧ (∀ l : Fin 2, t.renews[l] =
          if l.val < s.layers then { s.renews[l] with timer := some (s.param .ri * 16) } else s.renews[l])
      ∧ t.port.state = .calibrating ∧ t.port.settle = none ∧ t.port.sweep = .requested 0
      ∧ (∀ i : Fin 5, i.val < 4 ∨ s.protectEn = true →
          t.port.lanes[i] = { s.port.lanes[i] with passing := 0, result := .none, captureDelay := 0 })
      ∧ (s.protectEn = false → t.port.lanes[(4 : Fin 5)] =
          { s.port.lanes[(4 : Fin 5)] with passing := 0, result := .skipped, windowStart := 0, windowLength := 0 })
      ∧ t = { s with
          stack := t.stack, banks := t.banks, clusters := t.clusters, layerRecords := t.layerRecords
          dataBus := t.dataBus, renews := t.renews, port := t.port }
      ∧ t.port = { s.port with
          state := .calibrating, settle := none, sweep := .requested 0, lanes := t.port.lanes })
    ∧ (∀ (beats : CapturedBeats) (s : State) (tap : Fin 32) (ends : Nat) (h : tap.val < 31), s.pinHeld = false →
    s.port.sweep = .inFlight tap ends → ends ≤ s.mclk →
    ∃ t, exec (.patternReadDataEnd beats) s = .next t
      ∧ t.port.sweep = .requested ⟨tap.val + 1, by omega⟩
      ∧ (∀ i : Fin 5, i.val < 4 ∨ s.protectEn = true →
          t.port.lanes[i] =
            { s.port.lanes[i] with
              captureDelay := tap.val + 1
              passing :=
                if (∃ h : i.val < 4, ∀ j : Fin 8, (beats.data[i.val])[j] = 0) ∨
                    (i.val = 4 ∧ ∀ j : Fin 8, beats.check[j] = 0) then
                  s.port.lanes[i].passing ||| oneBit 32 tap.val
                else s.port.lanes[i].passing })
      ∧ (s.protectEn = false → t.port.lanes[(4 : Fin 5)] = s.port.lanes[(4 : Fin 5)])
      ∧ t = { s with port := { s.port with sweep := t.port.sweep, lanes := t.port.lanes } })

/-- The end of the sweep at tap 31: tap 31 joins the passing taps of the calibrated lanes whose eight captured beats equal the
pattern's (log 7), and the records are formed; after a START the port is ONLINE with PORT_ONLINE raised, or FAULT
with PORT_FAULT raised if a calibrated lane failed; after a RECAL it is ONLINE, with CAL_FAIL raised if one failed
(R160, R161, R163). -/
def Obligations.SweepEnd : Prop :=
  ∀ (beats : CapturedBeats) (s : State) (ends : Nat), s.pinHeld = false →
    s.port.sweep = .inFlight 31 ends → ends ≤ s.mclk →
    let compared := fun i : Fin 5 =>
      { s.port.lanes[i] with
        passing :=
          if (∃ h : i.val < 4, ∀ j : Fin 8, (beats.data[i.val])[j] = 0) ∨
              (i.val = 4 ∧ ∀ j : Fin 8, beats.check[j] = 0) then
            s.port.lanes[i].passing ||| oneBit 32 31
          else s.port.lanes[i].passing }
    let lanes : Vector Lane 5 := Vector.ofFn fun i =>
      if i.val < 4 || s.protectEn then (compared i).form s.minWin else s.port.lanes[i]
    let failed := ∃ i : Fin 5, (i.val < 4 ∨ s.protectEn = true) ∧ lanes[i].result = .fail
    (s.port.state = .calibrating → ¬ failed →
      exec (.patternReadDataEnd beats) s = .next
        ({ s with port := { s.port with state := .online, sweep := .none, lanes := lanes } }.raise .portOnline))
    ∧ (s.port.state = .calibrating → failed →
      ∃ t, exec (.patternReadDataEnd beats) s = .next t
        ∧ t.port = { s.port with state := .fault, sweep := .none, lanes := lanes } ∧ t.flag .portFault = true
        ∧ (∀ l : Fin 2, t.renews[l] = { s.renews[l] with timer := none, debt := 0, urgent := false })
        ∧ t.scrub.record = .empty ∧ t.scrub.offered = none ∧ t.scrub.pointer = s.scrub.pointer
        ∧ t.paq = s.paq ∧ t.channels = s.channels ∧ t.flags = (s.raise .portFault).flags)
    ∧ (s.port.state = .recalibrating →
      exec (.patternReadDataEnd beats) s = .next
        (let t : State := { s with port := { s.port with state := .online, sweep := .none, lanes := lanes } }
         if (List.finRange 5).any fun i => (i.val < 4 || s.protectEn) && lanes[i].result = .fail then t.raise .calFail
         else t))

/-- A lane's record at the end of a sweep: the window is the first of the longest runs of consecutive passing taps; the lane is
OK when it has MINWIN taps, and then takes the middle tap, else it fails and keeps its tap (R160). -/
def Obligations.LaneRecord : Prop :=
  ∀ (minWin : Nat) (x : Lane), 1 ≤ minWin →
    let t := x.form minWin
    t.passing = x.passing ∧ t.windowLength ≤ 32
      ∧ (∀ j, j < t.windowLength → x.passing.getLsbD (t.windowStart + j) = true)
      ∧ (∀ a n, (∀ j, j < n → x.passing.getLsbD (a + j) = true) →
          n ≤ t.windowLength ∧ (n = t.windowLength → 0 < n → t.windowStart ≤ a))
      ∧ (x.passing = 0 → t.windowStart = 0 ∧ t.windowLength = 0)
      ∧ (minWin ≤ t.windowLength → t.result = .ok ∧ t.chosenTap = t.windowStart + (t.windowLength - 1) / 2)
      ∧ (t.windowLength < minWin → t.result = .fail ∧ t.chosenTap = x.chosenTap)
      ∧ t.captureDelay = t.chosenTap

/-- RECAL, STOP, PARK and UNPARK: each is taken in its port states and refused with PORT_STATE elsewhere; what each changes when
it is taken (R82, R85, R162, R164). UNPARK takes the command slot of its mclk, and where that slot has carried a DRAM command it
is taken in the next mclk: both are log 23, the wait the model's choice. -/
def Obligations.PortCommands : Prop :=
  ∀ s : State, Working s →
    let serving := s.port.state = .online ∧ s.port.stopPending = false
    (serving → exec .recal s = .next { s with port := { s.port with state := .recalibrating } })
    ∧ (¬ serving → exec .recal s = .next (s.refuse .portState 0#8))
    ∧ (serving → exec .stop s = .next { s with port := { s.port with stopPending := true } })
    ∧ (¬ serving → s.port.state ≠ .fault → exec .stop s = .next (s.refuse .portState 0#8))
    ∧ (s.port.state = .fault → ∃ t, exec .stop s = .next t
        ∧ t.port = { s.port with state := .offline, stopPending := false }
        ∧ (∀ l : Fin 2, t.renews[l] = { s.renews[l] with timer := none, debt := 0, urgent := false })
        ∧ t.paq = s.paq ∧ t.channels = s.channels ∧ t.slots = s.slots ∧ t.cq = s.cq)
    ∧ (serving → exec .park s = .next { s with port := { s.port with state := .parking } })
    ∧ (¬ serving → exec .park s = .next (s.refuse .portState 0#8))
    ∧ (s.port.state = .parked → (s.slotTaken = false ∨ s.commandBus = none) → exec .unpark s = .next
        { s with
          port := { s.port with state := .unparking, xpt := some (s.param .xpt) }
          stack := { s.stack with mode := .leaving }, commandBus := some .unpark, slotTaken := true })
    ∧ (s.port.state = .parked → s.slotTaken = true → s.commandBus ≠ none → exec .unpark s = .next
        { tick s with
          port := { (tick s).port with state := .unparking, xpt := some (s.param .xpt) }
          stack := { s.stack with mode := .leaving }, commandBus := some .unpark, slotTaken := true })
    ∧ (s.port.state = .parked → ∀ t, exec .unpark s = .next t →
        exec .commandSlot t = .next t ∧ (s.slotTaken = true → s.commandBus ≠ none → t.mclk = s.mclk + 1))
    ∧ (s.port.state ≠ .parked → exec .unpark s = .next (s.refuse .portState 0#8))

/-- What follows a drain: the sweep of a RECAL begins, and a pending STOP reaches OFFLINE with a window command still offered
ending NOT_ONLINE, once nothing waits or is issued, every bank of the fitted layers is CLOSED and the data bus is free; the
expiry of XPT brings the port ONLINE with debts 0 and the renew timers started (R85, R87, R162, R164). Before that, with anything
waiting or issued, a bank of a fitted layer not CLOSED or the data bus not free, in another port state, with a sweep running or
no STOP pending, and before XPT has run out, the three rows change nothing (R85, R162, R164; log 3). -/
def Obligations.DrainAndUnparkEnds : Prop :=
  ∀ s : State, s.pinHeld = false →
    let settled := s.paq = [] ∧ (∀ b : Fin 32, s.fitted (layerOfBank b) = true → s.banks[b].state = .closed)
      ∧ s.issued = [] ∧ ∀ t, s.dataBus.ends = some t → t ≤ s.mclk
    (s.port.state = .recalibrating → s.port.sweep = .none → settled →
      ∃ t, exec .recalSweepStart s = .next t ∧ t.port.sweep = .requested 0 ∧ t.port.state = .recalibrating
        ∧ (∀ i : Fin 5, i.val < 4 ∨ s.protectEn = true →
            t.port.lanes[i] = { s.port.lanes[i] with passing := 0, result := .none, captureDelay := 0 })
        ∧ t = { s with port := { s.port with sweep := t.port.sweep, lanes := t.port.lanes } })
    ∧ (s.port.state = .online → s.port.stopPending = true → settled →
      ∃ t, exec .stopComplete s = .next t
        ∧ t.port = { s.port with state := .offline, stopPending := false }
        ∧ (∀ l : Fin 2, t.renews[l] = { s.renews[l] with timer := none, debt := 0, urgent := false })
        ∧ t.scrub.record = .empty ∧ t.scrub.offered = none ∧ t.arbiter.scrubWait = 0
        ∧ t.window.status = (if s.window.offered.isSome then .notOnline else s.window.status)
        ∧ (s.window.offered.isSome = true → t.flag .windowDone = true ∧ t.window.offered = none)
        ∧ (s.window.offered = none → t.flags = s.flags)
        ∧ t.channels = s.channels ∧ t.slots = s.slots ∧ t.banks = s.banks ∧ t.cq = s.cq)
    ∧ (s.port.state = .unparking → s.port.xpt = some 0 →
      ∃ t, exec .xptExpiry s = .next t
        ∧ t.port = { s.port with state := .online, xpt := none } ∧ t.flag .unparkDone = true
        ∧ (∀ l : Fin 2, t.renews[l] =
            if l.val < s.layers then
              { s.renews[l] with debt := 0, urgent := false, timer := some (s.param .ri * 16) }
            else s.renews[l])
        ∧ t = { s with
            port := t.port, renews := t.renews, stack := { s.stack with mode := .ready }
            flags := (s.raise .unparkDone).flags })
    ∧ (s.port.state ≠ .recalibrating ∨ s.port.sweep ≠ .none ∨ s.paq ≠ []
        ∨ (∃ b : Fin 32, s.fitted (layerOfBank b) = true ∧ s.banks[b].state ≠ .closed) ∨ s.issued ≠ []
        ∨ (∃ t, s.dataBus.ends = some t ∧ s.mclk < t) → exec .recalSweepStart s = .next s)
    ∧ (s.port.state ≠ .online ∨ s.port.stopPending = false ∨ s.paq ≠ []
        ∨ (∃ b : Fin 32, s.fitted (layerOfBank b) = true ∧ s.banks[b].state ≠ .closed) ∨ s.issued ≠ []
        ∨ (∃ t, s.dataBus.ends = some t ∧ s.mclk < t) → exec .stopComplete s = .next s)
    ∧ (s.port.state ≠ .unparking ∨ s.port.xpt ≠ some 0 → exec .xptExpiry s = .next s)

/-! ### Descriptors and channels (05, 06) -/

/-- SUBMIT: the tests of R94 in their order; an accepted slot is TAKEN at the tail of the queue with its outcome cleared, in
every channel state, and a channel in IDLE, whose queue is empty, takes it at once. -/
def Obligations.SubmitCommand : Prop :=
  ∀ (n : Fin 8) (k : Fin 64) (s : State), s.pinHeld = false →
    (5 ≤ n.val → exec (.submit n k) s = .next (s.refuse .timingInvalid 0#8))
    ∧ ∀ c : Fin 5, n.val = c.val →
        (s.transferReset = true → exec (.submit n k) s = .next (s.refuse .resetBusy 0#8))
        ∧ (s.transferReset = false → s.slots[k].owner ≠ .host →
            exec (.submit n k) s = .next (s.refuse .slotNotHost 0#8))
        ∧ (s.transferReset = false → s.slots[k].owner = .host → 8 ≤ s.channels[c].queue.length →
            exec (.submit n k) s = .next (s.refuse .queueFull 0#8))
        ∧ (s.transferReset = false → s.slots[k].owner = .host → s.channels[c].queue.length < 8 →
            s.channels[c].state ≠ .idle →
            exec (.submit n k) s = .next
              { s with
                slots := s.slots.set k
                  { s.slots[k] with owner := .taken, holder := some c, result := .none, doneUnits := 0 }
                channels := s.channels.set c { s.channels[c] with queue := s.channels[c].queue ++ [k] } })
        ∧ (s.transferReset = false → s.slots[k].owner = .host → s.channels[c].queue = [] →
            s.channels[c].state = .idle →
            exec (.submit n k) s = .next (beginRun c k
              { s with
                slots := s.slots.set k
                  { s.slots[k] with owner := .taken, holder := some c, result := .none, doneUnits := 0 } }))

/-- ENABLE, DISABLE and RESUME: each is taken in its one channel state and refused with CHANNEL_STATE elsewhere. ENABLE and
RESUME send the channel to IDLE, where it takes the head of a queue that is not empty; they change no port. A SUBMIT to a
channel in IDLE takes it out of IDLE, so that a DISABLE then is refused; one to a channel that is OFF waits TAKEN
(R108, R109). -/
def Obligations.EnableDisableResume : Prop :=
  ∀ (n : Fin 8) (c : Fin 5) (s : State), n.val = c.val → Working s →
    let idled : State := { s with channels := s.channels.set c { s.channels[c] with state := .idle } }
    (∀ i, (i = .enable n ∧ s.channels[c].state = .off) ∨ (i = .resume n ∧ s.channels[c].state = .halted) →
        (s.channels[c].queue = [] → exec i s = .next idled)
        ∧ (∀ k rest, s.channels[c].queue = k :: rest →
            exec i s = .next (beginRun c k
              { s with channels := s.channels.set c { s.channels[c] with queue := rest } }))
        ∧ ∃ t, exec i s = .next t ∧ t.ports = s.ports)
    ∧ (s.channels[c].state ≠ .off → exec (.enable n) s = .next (s.refuse .channelState 0#8))
    ∧ (s.channels[c].state ≠ .halted → exec (.resume n) s = .next (s.refuse .channelState 0#8))
    ∧ (s.channels[c].state = .idle → exec (.disable n) s = .next
        { s with channels := s.channels.set c { s.channels[c] with state := .off } })
    ∧ (s.channels[c].state ≠ .idle → exec (.disable n) s = .next (s.refuse .channelState 0#8))
    ∧ (∀ k t, s.channels[c].state = .idle → s.channels[c].queue = [] → s.slots[k].owner = .host →
        exec (.submit n k) s = .next t →
        t.channels[c].state ≠ .idle ∧ exec (.disable n) t = .next (t.refuse .channelState 0#8))
    ∧ (∀ k t, s.channels[c].state = .off → s.channels[c].queue = [] → s.slots[k].owner = .host →
        exec (.submit n k) s = .next t →
        t.channels[c].state = .off ∧ t.channels[c].queue = [k] ∧ t.slots[k].owner = .taken)

/-- CANCEL: every queued slot returns to HOST as CANCELLED, and the channel acts by its state; a run with nothing outstanding
ends at once, one with accesses outstanding waits in CANCELLING with its offer withdrawn and its FILLED slots FREE
(R105, R110, R125, R126). -/
def Obligations.CancelCommand : Prop :=
  ∀ (n : Fin 8) (c : Fin 5) (s : State), n.val = c.val → Working s →
    let emptied : Vector Slot 64 := Vector.ofFn fun k =>
      if k ∈ s.channels[c].queue then
        { s.slots[k] with owner := .host, holder := none, result := .cancelled, doneUnits := 0 }
      else s.slots[k]
    let ch := { s.channels[c] with queue := [] }
    (s.channels[c].state = .cancelling → exec (.cancel n) s = .next (s.refuse .channelState 0#8))
    ∧ (s.channels[c].state = .off ∨ s.channels[c].state = .idle →
        exec (.cancel n) s = .next { s with slots := emptied, channels := s.channels.set c ch })
    ∧ (s.channels[c].state = .halted →
        exec (.cancel n) s = .next { s with slots := emptied, channels := s.channels.set c { ch with state := .idle } })
    ∧ (s.channels[c].state = .postWait →
        exec (.cancel n) s = .next
          { s with slots := emptied, channels := s.channels.set c { ch with state := .cancelling } })
    ∧ (s.channels[c].state = .run → s.channels[c].outstanding ≠ 0 →
        ∃ t, exec (.cancel n) s = .next t ∧ t.slots = emptied
          ∧ t.channels[c].state = .cancelling ∧ t.channels[c].runMode = some .cancelled
          ∧ t.channels[c].offered = none ∧ t.channels[c].queue = [] ∧ t.channels[c].current = s.channels[c].current
          ∧ t.channels[c].outstanding = s.channels[c].outstanding
          ∧ (∀ i : Fin 8, t.channels[c].returns[i] = match s.channels[c].returns[i] with
              | .filled _ _ _ _ => .free
              | r => r)
          ∧ t = { s with slots := t.slots, channels := s.channels.set c t.channels[c] })
    ∧ (∀ k, s.channels[c].state = .run → s.channels[c].outstanding = 0 → s.channels[c].current = some k →
        s.channels[c].pendingRecord = none → s.slots[k].owner = .running → s.slots[k].holder = some c →
        (∀ j ∈ s.channels[c].queue, j ≠ k) →
        (s.slots[k].notify = false ∨ s.cq.queue.length < 32) →
        ∃ t, exec (.cancel n) s = .next t
          ∧ t.slots = emptied.set k
              { s.slots[k] with
                owner := .host, holder := none, result := .cancelled, doneUnits := s.channels[c].unitsReached }
          ∧ t.channels[c].state = .idle ∧ t.channels[c].current = none ∧ t.channels[c].queue = []
          ∧ (s.slots[k].notify = false → t.cq = s.cq)
          ∧ (s.slots[k].notify = true → t.cq.queue = s.cq.queue ++
              [{ sequence := s.cq.nextSequence, slot := k, channel := c, result := .cancelled, tag := s.slots[k].tag,
                 doneUnits := s.channels[c].unitsReached }])
          ∧ t = { s with slots := t.slots, channels := s.channels.set c t.channels[c], cq := t.cq })

/-- The take or link follow of a slot: the slot is RUNNING, the run items are set and the first access is chosen; a descriptor that fails validation ends
there, with a record if NOTIFY is set, and halts its channel, or waits for a place (R96, R99, R112, R121, R122). -/
def Obligations.StartOfRun : Prop :=
  ∀ (c : Fin 5) (k : Fin 64) (s : State),
    let running := { s.slots[k] with owner := .running, holder := some c, result := .none, doneUnits := 0 }
    (validate s c s.slots[k] = none →
      beginRun c k s = offerNext c
        { s with
          slots := s.slots.set k running
          channels := s.channels.set c
            { s.channels[c] with
              state := .run, current := some k, runMode := some .live, nextAddress := s.slots[k].addr.toNat
              unitsLeft := s.slots[k].units.toNat, nextSequence := 0, delivery := 0, stopPoint := none
              unitsReached := 0, outstanding := 0, pendingRecord := none, endedByMark := false, offered := none } })
    ∧ (∀ r, validate s c s.slots[k] = some r → (s.slots[k].notify = false ∨ s.cq.queue.length < 32) →
      ∃ t, beginRun c k s = t
        ∧ t.slots = s.slots.set k { s.slots[k] with owner := .host, holder := none, result := r, doneUnits := 0 }
        ∧ t.channels[c].state = .halted ∧ t.channels[c].current = none ∧ t.channels[c].offered = none
        ∧ t.channels[c].queue = s.channels[c].queue
        ∧ t.flags = (s.raise (.channelHalted c)).flags
        ∧ (s.slots[k].notify = false → t.cq = s.cq)
        ∧ (s.slots[k].notify = true → t.cq =
            { s.cq with
              queue := s.cq.queue ++
                [{ sequence := s.cq.nextSequence, slot := k, channel := c, result := r, tag := s.slots[k].tag,
                   doneUnits := 0 }]
              nextSequence := s.cq.nextSequence + 1
              timer := if s.cq.queue = [] ∧ s.cq.holdoff ≠ 0 then some (s.cq.holdoff * 64) else s.cq.timer })
        ∧ t = { s with slots := t.slots, channels := s.channels.set c t.channels[c], cq := t.cq, flags := t.flags })
    ∧ (∀ r, validate s c s.slots[k] = some r → s.slots[k].notify = true → 32 ≤ s.cq.queue.length →
      ∃ t, beginRun c k s = t
        ∧ t.slots = s.slots.set k { running with result := r, doneUnits := 0 }
        ∧ t.channels[c].state = .postWait ∧ t.channels[c].current = some k ∧ t.channels[c].offered = none
        ∧ t.channels[c].pendingRecord = some
            { slot := k, channel := c, result := r, tag := s.slots[k].tag, doneUnits := 0 }
        ∧ t = { s with slots := t.slots, channels := s.channels.set c t.channels[c] })

/-- Start validation: the five tests of R97 in their order, the ranges of R98, and the overlap of a COPY as a byte in both
ranges. -/
def Obligations.StartValidation : Prop :=
  ∀ (c : Fin 5) (d : Slot) (s : State),
    let length := 16 * d.units.toNat
    let allowed :=
      (∃ p : Fin 4, p.val = c.val ∧
        ((d.op = .inbound ∧ s.ports[p].direction = .inward) ∨ (d.op = .outbound ∧ s.ports[p].direction = .outward)))
        ∨ (c = 4 ∧ (d.op = .copy ∨ d.op = .fill))
    let aligned := d.addr.toNat % 16 = 0 ∧ (d.op = .copy → d.dest.toNat % 16 = 0)
    let inside := fun start : Nat =>
      start + length ≤ (if s.layers = 1 then 536870912 else 1073741824)
        ∧ s.channels[c].boundsBase * 65536 ≤ start ∧ start + length ≤ s.channels[c].boundsLimit * 65536
    let ranged := inside d.addr.toNat ∧ (d.op = .copy → inside d.dest.toNat)
    let overlap := d.op = .copy ∧ ∃ x : Nat,
      d.addr.toNat ≤ x ∧ x < d.addr.toNat + length ∧ d.dest.toNat ≤ x ∧ x < d.dest.toNat + length
    s.layers = 1 ∨ s.layers = 2 →
    (¬ allowed → validate s c d = some .failedFormat)
    ∧ (allowed → d.units.toNat = 0 → validate s c d = some .failedFormat)
    ∧ (allowed → d.units.toNat ≠ 0 → ¬ aligned → validate s c d = some .failedFormat)
    ∧ (allowed → d.units.toNat ≠ 0 → aligned → ¬ ranged → validate s c d = some .failedRange)
    ∧ (allowed → d.units.toNat ≠ 0 → aligned → ranged → overlap → validate s c d = some .failedOverlap)
    ∧ (allowed → d.units.toNat ≠ 0 → aligned → ranged → ¬ overlap → validate s c d = none)

/-- The splitter: from an address and a number of units left, the next access is a HALF at an odd half or for a last single
unit, else a FULL; a COPY between ranges of different remainders is cut into HALF accesses; and the access with sequence
number q stands where q accesses so cut end (R113). -/
def Obligations.SplitterCuts : Prop :=
  ∀ (ch : Channel) (d : Slot),
    let apart := d.op = .copy ∧ d.addr.toNat % 32 ≠ d.dest.toNat % 32
    (ch.unitsLeft = 0 → splitterNext ch d = none)
    ∧ (ch.unitsLeft ≠ 0 → apart → splitterNext ch d = some (.half, ch.nextAddress))
    ∧ (ch.unitsLeft ≠ 0 → ¬ apart → ch.nextAddress % 32 ≠ 0 → splitterNext ch d = some (.half, ch.nextAddress))
    ∧ (ch.unitsLeft = 1 → splitterNext ch d = some (.half, ch.nextAddress))
    ∧ (2 ≤ ch.unitsLeft → ¬ apart → ch.nextAddress % 32 = 0 → splitterNext ch d = some (.full, ch.nextAddress))
    ∧ (d.addr.toNat % 16 = 0 →
        accessAddress d 0 = d.addr.toNat
        ∧ ∀ q, accessAddress d (q + 1) =
            accessAddress d q + (if apart ∨ accessAddress d q % 32 ≠ 0 then 16 else 32))

/-- What a channel offers and when. A LIVE run offers, INBOUND the splitter's access as a WRITE once the FIFO holds its words or,
under STOP_ON_MARK, a marked one among them; OUTBOUND as a READ while a return slot is FREE; FILL as a WRITE at once; COPY the
WRITE of the FILLED slot at the delivery pointer, at DEST plus the way read, else a READ. A STOPPED run offers that COPY write
alone. A channel in RUN without an offered access takes it; any other keeps what it has
(R113, R114, R115, R116, R118, R119, R120, R123). -/
def Obligations.ChannelOffers : Prop :=
  (∀ (c : Fin 5) (s : State),
    (s.channels[c].state = .run → s.channels[c].offered = none → offerNext c s =
      { s with channels := s.channels.set c { s.channels[c] with offered := nextOffer s c } })
    ∧ (s.channels[c].state ≠ .run ∨ s.channels[c].offered ≠ none → offerNext c s = s))
    ∧ ∀ (c : Fin 5) (k : Fin 64) (s : State), s.channels[c].current = some k →
    (∀ (q : Nat) (r : ReturnSlot), isFilledWith q r = true ↔ ∃ z h words, r = .filled q z h words)
    ∧
    let ch := s.channels[c]
    let d := s.slots[k]
    let cut := fun (x : Kind) (z : Size) (a : Nat) =>
      some { kind := x, size := z, address := a, sequence := ch.nextSequence : Offer }
    let live := ch.runMode = some .live
    let room := ∃ i : Fin 8, ch.returns[i] = .free
    let noHead := ∀ i : Fin 8, isFilledWith ch.delivery ch.returns[i] = false
    (live → splitterNext ch d = none → d.op ≠ .copy → nextOffer s c = none)
    ∧ (∀ (z : Size) (a : Nat) (p : Fin 4), live → splitterNext ch d = some (z, a) → d.op = .inbound → p.val = c.val →
        let n := match z with
          | .full => 8
          | .half => 4
        let ready := n ≤ s.ports[p].fifo.length
          ∨ (d.stopOnMark = true ∧ ∃ w ∈ s.ports[p].fifo.take n, w.2 = true)
        (ready → nextOffer s c = cut .write z a) ∧ (¬ ready → nextOffer s c = none))
    ∧ (∀ (z : Size) (a : Nat), live → splitterNext ch d = some (z, a) → d.op = .outbound →
        (room → nextOffer s c = cut .read z a) ∧ (¬ room → nextOffer s c = none))
    ∧ (∀ (z : Size) (a : Nat), live → splitterNext ch d = some (z, a) → d.op = .fill →
        nextOffer s c = cut .write z a)
    ∧ (∀ (i : Fin 8) (z : Size) (h : Nat) (words : List Word), live ∨ ch.runMode = some .stopped → d.op = .copy →
        ch.returns[i] = .filled ch.delivery z h words →
        (∀ j : Fin 8, j < i → isFilledWith ch.delivery ch.returns[j] = false) →
        nextOffer s c = some
          { kind := .write, size := z, sequence := ch.delivery
            address := d.dest.toNat + (accessAddress d ch.delivery - d.addr.toNat) })
    ∧ (live → d.op = .copy → noHead →
        (splitterNext ch d = none ∨ ¬ room → nextOffer s c = none)
        ∧ ∀ (z : Size) (a : Nat), room → splitterNext ch d = some (z, a) → nextOffer s c = cut .read z a)
    ∧ (ch.runMode = some .stopped → d.op ≠ .copy ∨ noHead → nextOffer s c = none)
    ∧ (ch.runMode = some .cancelled ∨ ch.runMode = none → nextOffer s c = none)

/-- The end of a run: the slot returns to HOST; after DONE or ENDED_BY_MARK the link is followed if the linked slot is HOST, a
refused follow raises LINK_REFUSED and records the slot, and a chain's end turns to the queue; after a FAILED result the
channel halts; a cancelled channel turns to its queue with no link followed. Before it, RESULT and DONE_UNITS are written and the
record is posted, or waits while the queue is full. After every event of a run, it ends if the end condition of its mode and flow
holds (R101 to R103, R115, R118 to R126). -/
def Obligations.EndOfRun : Prop :=
  (∀ (c : Fin 5) (k : Fin 64) (s : State),
    let freed : State :=
      { s with
        slots := s.slots.set k { s.slots[k] with owner := .host, holder := none }
        channels := s.channels.set c
          { s.channels[c] with
            current := none, runMode := none, stopPoint := none, pendingRecord := none, offered := none } }
    let failed := s.slots[k].result = .failedFormat ∨ s.slots[k].result = .failedRange
      ∨ s.slots[k].result = .failedOverlap ∨ s.slots[k].result = .failedData
    let cancelling := s.channels[c].state = .cancelling
    (∀ t : State,
        (t.channels[c].queue = [] → takeNext c t =
          { t with channels := t.channels.set c { t.channels[c] with state := .idle } })
        ∧ ∀ j rest, t.channels[c].queue = j :: rest → takeNext c t =
          beginRun c j { t with channels := t.channels.set c { t.channels[c] with queue := rest } })
    ∧ (cancelling ∨ (¬ failed ∧ s.slots[k].link = none) →
        (s.channels[c].queue = [] → finishRun c k s =
          { freed with channels := freed.channels.set c { freed.channels[c] with state := .idle } })
        ∧ ∀ j rest, s.channels[c].queue = j :: rest → finishRun c k s =
          beginRun c j { freed with channels := freed.channels.set c { freed.channels[c] with queue := rest } })
    ∧ (¬ cancelling → failed → finishRun c k s =
        ({ freed with
            channels := freed.channels.set c { freed.channels[c] with state := .halted } }.raise (.channelHalted c)))
    ∧ (∀ l, ¬ cancelling → ¬ failed → s.slots[k].link = some l →
        (freed.slots[l].owner = .host → finishRun c k s = beginRun c l freed)
        ∧ (freed.slots[l].owner ≠ .host → finishRun c k s =
            takeNext c ({ freed with
              channels := freed.channels.set c { freed.channels[c] with lastRefused := some l } }.raise .linkRefused))))
    ∧ (∀ (c : Fin 5) (k : Fin 64) (r : Result) (s : State), s.channels[c].current = some k →
    let put : State :=
      { s with
        slots := s.slots.set k { s.slots[k] with result := r, doneUnits := s.channels[c].unitsReached } }
    let units := s.channels[c].unitsReached
    (s.slots[k].notify = false → endRun c r s = finishRun c k put)
    ∧ (s.slots[k].notify = true → s.cq.queue.length < 32 → endRun c r s = finishRun c k
        { put with
          cq :=
            { s.cq with
              queue := s.cq.queue ++
                [{ sequence := s.cq.nextSequence, slot := k, channel := c, result := r, tag := s.slots[k].tag,
                   doneUnits := units }]
              nextSequence := s.cq.nextSequence + 1
              timer := if s.cq.queue = [] ∧ s.cq.holdoff ≠ 0 then some (s.cq.holdoff * 64) else s.cq.timer } })
    ∧ (s.slots[k].notify = true → 32 ≤ s.cq.queue.length → endRun c r s =
        { put with
          channels := s.channels.set c
            { s.channels[c] with
              pendingRecord := some
                { slot := k, channel := c, result := r, tag := s.slots[k].tag, doneUnits := units }
              offered := none
              state := if s.channels[c].state = .cancelling then .cancelling else .postWait } }))
    ∧ ∀ (c : Fin 5) (k : Fin 64) (s : State), s.channels[c].current = some k →
    let ch := s.channels[c]
    let complete := ch.unitsLeft = 0 ∧ (s.slots[k].op ≠ .outbound → ch.outstanding = 0)
      ∧ (s.slots[k].op = .outbound ∨ s.slots[k].op = .copy → ch.delivery = ch.nextSequence)
    (ch.state = .run → ch.runMode = some .live → complete →
        settleChannel c s = endRun c (if ch.endedByMark = true then .endedByMark else .done) s)
    ∧ (ch.state = .run → ch.runMode = some .live → ¬ complete → settleChannel c s = offerNext c s)
    ∧ (ch.state = .run → ch.runMode = some .stopped → ch.outstanding = 0 → ch.stopPoint = some ch.delivery →
        settleChannel c s = endRun c .failedData s)
    ∧ (ch.state = .run → ch.runMode = some .stopped → ¬ (ch.outstanding = 0 ∧ ch.stopPoint = some ch.delivery) →
        settleChannel c s = offerNext c s)
    ∧ (ch.state = .cancelling → ch.runMode = some .cancelled → ch.outstanding = 0 → ch.pendingRecord = none →
        settleChannel c s = endRun c .cancelled s)
    ∧ (ch.state = .cancelling → ch.runMode = some .cancelled → ch.outstanding ≠ 0 ∨ ch.pendingRecord ≠ none →
        settleChannel c s = s)

/-! ### The stream ports (07) -/

/-- PORT_ARRIVAL and PORT_TAKE: a word joins the FIFO of an enabled IN port with a place free, else it is lost with PORT_OVERRUN;
an enabled OUT port with words drives its head, else PORT_UNDERRUN (R133, R135). After an arrival the bound channel chooses its
next access if it has none offered, and nothing else changes. A strobe is judged by the direction that stands: PORT_ARRIVAL at
an OUT port is a take, PORT_TAKE at an IN port the arrival of some word and mark (R138; log 9, the model's reading). -/
def Obligations.PortStrobes : Prop :=
  ∀ (p : Fin 4) (w : Word) (m : Bool) (s : State), s.pinHeld = false →
    (s.ports[p].direction = .inward → s.ports[p].enable = true → s.ports[p].fifo.length < 32 →
      exec (.portArrival p w m) s = .next (offerNext ⟨p.val, by omega⟩
        { s with ports := s.ports.set p { s.ports[p] with fifo := s.ports[p].fifo ++ [(w, m)] } }))
    ∧ (s.ports[p].direction = .inward → (s.ports[p].enable = false ∨ 32 ≤ s.ports[p].fifo.length) →
      exec (.portArrival p w m) s = .next (s.raise (.portOverrun p)))
    ∧ (∀ v k rest, s.ports[p].direction = .outward → s.ports[p].enable = true → s.ports[p].fifo = (v, k) :: rest →
      exec (.portTake p) s = .next
        { s with ports := s.ports.set p { s.ports[p] with fifo := rest, data := v, mark := k } })
    ∧ (s.ports[p].direction = .outward → (s.ports[p].enable = false ∨ s.ports[p].fifo = []) →
      exec (.portTake p) s = .next (s.raise (.portUnderrun p)))
    ∧ (s.ports[p].direction = .outward → exec (.portArrival p w m) s = exec (.portTake p) s)
    ∧ (s.ports[p].direction = .inward → ∃ (v : Word) (x : Bool),
        exec (.portTake p) s = exec (.portArrival p v x) { s with freeCount := s.freeCount + 1 })

/-- PORT_ENABLE_WRITE: the enable changes and with it ready; the FIFO, the direction and the bound channel do not. A disabled IN
port loses its words and a disabled OUT port delivers nothing, each raising its flag. A write of the value held changes
nothing. A transfer reset keeps the enable, a device reset clears it (R137). Another value is refused with TIMING_INVALID
(R130). -/
def Obligations.PortEnableWrite : Prop :=
  ∀ (p : Fin 4) (s : State), Working s →
    (∀ (v : Reg) (b : Bool), v = (if b then 1#16 else 0#16) →
      ∃ t, exec (.portEnableWrite p v) s = .next t
        ∧ t = { s with ports := s.ports.set p { s.ports[p] with enable := b } }
        ∧ (s.ports[p].enable = b → t = s)
        ∧ nextPlacement t p = nextPlacement s p ∧ (∀ c, channelFifo t c = channelFifo s c)
        ∧ (t.portReady p = true ↔ b = true ∧
            ((s.ports[p].direction = .inward ∧ s.ports[p].fifo.length < 32)
              ∨ (s.ports[p].direction = .outward ∧ s.ports[p].fifo ≠ [])))
        ∧ (b = false → s.ports[p].direction = .inward →
            ∀ w m, exec (.portArrival p w m) t = .next (t.raise (.portOverrun p)))
        ∧ (b = false → s.ports[p].direction = .outward → exec (.portTake p) t = .next (t.raise (.portUnderrun p)))
        ∧ (∀ u, exec .transferReset t = .next u → u.ports[p].enable = b)
        ∧ ∀ u, exec .deviceReset t = .next u → u.ports[p].enable = false)
    ∧ ∀ v : Reg, v ≠ 0#16 → v ≠ 1#16 →
        exec (.portEnableWrite p v) s = .next (s.refuse .timingInvalid (BitVec.ofNat 8 (0x69 + 3 * p.val)))

/-- PORT_DIRECTION_WRITE: taken while the bound channel is OFF; a change empties the FIFO, a port turned OUT drives zero and no
mark; otherwise refused (R130, R135, R138). That a port turned IN keeps the two fields
of what it drove is the model's choice (log 24). FLUSH: the FIFO empties while the bound channel is OFF, IDLE or HALTED; otherwise, and
for a number that names no port, refused (R139). ENABLE, DISABLE, CANCEL and RESUME
are refused with RESET_BUSY under a transfer reset, and otherwise with TIMING_INVALID where the number names no channel
(6.2, R178). That RESET_BUSY is tested before the number is log 11 (DEDUCED). -/
def Obligations.PortDirectionAndFlush : Prop :=
  (∀ (p : Fin 4) (v : Reg) (s : State), Working s →
    let r := BitVec.ofNat 8 (0x68 + 3 * p.val)
    (s.channels[p.val].state ≠ .off → exec (.portDirectionWrite p v) s = .next (s.refuse .channelState r))
    ∧ (s.channels[p.val].state = .off → v ≠ 0#16 → v ≠ 1#16 →
        exec (.portDirectionWrite p v) s = .next (s.refuse .timingInvalid r))
    ∧ (s.channels[p.val].state = .off →
        (v = 0#16 ∧ s.ports[p].direction = .inward) ∨ (v = 1#16 ∧ s.ports[p].direction = .outward) →
        exec (.portDirectionWrite p v) s = .next s)
    ∧ (s.channels[p.val].state = .off → v = 0#16 → s.ports[p].direction = .outward →
        exec (.portDirectionWrite p v) s = .next
          { s with ports := s.ports.set p { s.ports[p] with direction := .inward, fifo := [] } })
    ∧ (s.channels[p.val].state = .off → v = 1#16 → s.ports[p].direction = .inward →
        exec (.portDirectionWrite p v) s = .next
          { s with
            ports := s.ports.set p
              { s.ports[p] with direction := .outward, fifo := [], data := 0, mark := false } }))
    ∧ (∀ (n : Fin 8) (s : State), Working s →
    (4 ≤ n.val → exec (.flush n) s = .next (s.refuse .timingInvalid 0#8))
    ∧ ∀ p : Fin 4, n.val = p.val →
        let x := s.channels[p.val].state
        (x = .off ∨ x = .idle ∨ x = .halted →
          exec (.flush n) s = .next { s with ports := s.ports.set p { s.ports[p] with fifo := [] } })
        ∧ (x = .run ∨ x = .postWait ∨ x = .cancelling → exec (.flush n) s = .next (s.refuse .channelState 0#8)))
    ∧ (∀ (n : Fin 8) (i : Instr) (s : State), s.pinHeld = false →
    i = .enable n ∨ i = .disable n ∨ i = .cancel n ∨ i = .resume n →
    (s.transferReset = true → exec i s = .next (s.refuse .resetBusy 0#8))
    ∧ (s.transferReset = false → 5 ≤ n.val → exec i s = .next (s.refuse .timingInvalid 0#8)))

/-- WORD_PLACEMENT: the next word of the head slot joins the FIFO; a unit counts at its fourth word; the slot becomes FREE and the
delivery pointer rises at its last word. In a LIVE run the last word of the range carries the mark under MARK_AT_END, and ends the
run. A STOPPED run places unmarked words, and ends FAILED_DATA once the pointer reaches its stop point with nothing outstanding
(R118, R123, R136). -/
def Obligations.WordPlacement : Prop :=
  ∀ (p : Fin 4) (s : State) (k : Fin 64) (i : Fin 8) (z : Size) (h : Nat) (w : Word) (rest : List Word) (mode : RunMode),
    let c : Fin 5 := ⟨p.val, by omega⟩
    let ch := s.channels[c]
    s.pinHeld = false → ch.state = .run → ch.runMode = some mode → ch.current = some k → s.slots[k].op = .outbound →
    s.ports[p].fifo.length < 32 → ch.returns[i] = .filled ch.delivery z h (w :: rest) →
    (∀ j : Fin 8, j < i → isFilledWith ch.delivery ch.returns[j] = false) →
    let last := rest = [] ∧ ch.unitsLeft = 0 ∧ ch.delivery + 1 = ch.nextSequence
    let placed : State :=
      { s with
        ports := s.ports.set p
          { s.ports[p] with
            fifo := s.ports[p].fifo ++ [(w, decide (s.slots[k].markAtEnd = true ∧ mode = .live ∧ last))] }
        channels := s.channels.set c
          { ch with
            returns := ch.returns.set i (if rest = [] then .free else .filled ch.delivery z h rest)
            delivery := if rest = [] then ch.delivery + 1 else ch.delivery
            unitsReached := if rest.length % 4 = 0 then ch.unitsReached + 1 else ch.unitsReached } }
    (mode = .live → ¬ last → ¬ (ch.unitsLeft = 0 ∧ placed.channels[c].delivery = ch.nextSequence) →
      exec (.wordPlacement p) s = .next (offerNext c placed))
    ∧ (mode = .live → last → exec (.wordPlacement p) s = .next
        (endRun c (if ch.endedByMark then .endedByMark else .done) placed))
    ∧ (mode = .stopped → ¬ (ch.outstanding = 0 ∧ ch.stopPoint = some placed.channels[c].delivery) →
        exec (.wordPlacement p) s = .next (offerNext c placed))
    ∧ (mode = .stopped → ch.outstanding = 0 → ch.stopPoint = some placed.channels[c].delivery →
        exec (.wordPlacement p) s = .next (endRun c .failedData placed))

/-! ### Admission (02) -/

/-- An offered access finds its buffer: a WRITE of any source with a free WDB slot, a channel's READ with a FREE return slot, a
READ of the window or the scrub always; nothing offered is never admissible. ADMISSION: the arbiter serves the window, then a promoted scrub access, then the channels from the turn pointer on in cyclic
order, then any scrub access; with none admissible, or admission closed, nothing changes (R28, R30, R31, R33). -/
def Obligations.AdmissionOrder : Prop :=
  ∀ s : State, s.pinHeld = false →
    let isOpen := s.port.state = .online ∧ s.port.stopPending = false ∧ s.transferReset = false ∧ s.paq.length < 24
    let promoted := scrubReady s = true ∧ s.arbiter.scrubWait = 64
    let room := ∃ i : Fin 16, s.wdb[i] = none
    (windowReady s = true ↔ ∃ k z, s.window.offered = some (k, z) ∧ (k = .write → room))
    ∧ (∀ c : Fin 5, channelReady s c = true ↔
        ∃ o, s.channels[c].offered = some o ∧ (o.kind = .write → room)
          ∧ (o.kind = .read → ∃ i : Fin 8, s.channels[c].returns[i] = .free))
    ∧ (scrubReady s = true ↔ ∃ o, s.scrub.offered = some o ∧ (o = .writeBack → room))
    ∧ (∀ src, nextSource s = some src → exec .admission s = .next (admitFrom src s))
    ∧ (nextSource s = none → exec .admission s = .next s)
    ∧ (¬ isOpen → nextSource s = none)
    ∧ (isOpen → windowReady s = true → nextSource s = some .win)
    ∧ (isOpen → windowReady s = false → promoted → nextSource s = some .scrub)
    ∧ (∀ (c : Fin 5) (j : Nat), isOpen → windowReady s = false → ¬ promoted → j < 5 →
        c.val = (s.arbiter.turn.val + j) % 5 → channelReady s c = true →
        (∀ (d : Fin 5) (i : Nat), i < j → d.val = (s.arbiter.turn.val + i) % 5 → channelReady s d = false) →
        nextSource s = some (.ch c))
    ∧ (isOpen → windowReady s = false → ¬ promoted → (∀ c, channelReady s c = false) →
        nextSource s = if scrubReady s then some .scrub else none)
    ∧ ∀ c : Fin 5, 1 ≤ s.arbiter.remaining → 1 ≤ s.channels[c].weight →
        let a := turnAfter s c s.arbiter
        a.scrubWait = s.arbiter.scrubWait
          ∧ (c = s.arbiter.turn → 2 ≤ s.arbiter.remaining → a.turn = c ∧ a.remaining = s.arbiter.remaining - 1)
          ∧ (c = s.arbiter.turn → s.arbiter.remaining = 1 →
              a.turn = c + 1 ∧ a.remaining = s.channels[c + 1].weight)
          ∧ (c ≠ s.arbiter.turn → 2 ≤ s.channels[c].weight → a.turn = c ∧ a.remaining = s.channels[c].weight - 1)
          ∧ (c ≠ s.arbiter.turn → s.channels[c].weight = 1 →
              a.turn = c + 1 ∧ a.remaining = s.channels[c + 1].weight)

/-- The admission of a READ: the window's, the scrub's or a channel's. The entry joins the tail with bypass count 0, the cap of
BYPASS_CAP and the older writes to its burst as predecessors; the destination is reserved; a channel's splitter advances,
and it chooses its next access
(R33, R34, R37, R114, R117, R150). -/
def Obligations.AdmissionOfReads : Prop :=
  ∀ s : State,
    let entry := fun (src : Source) (z : Size) (a : Nat) (b : Buffer) (q : Nat) =>
      { id := s.nextEntry, source := src, kind := .read, size := z, address := a, buffer := b, sequence := q,
        bypass := 0, cap := s.bypassCap, overdue := false
        predecessors := (s.paq.filter fun e => burstOf e.address = burstOf a && e.kind = .write).map fun e => e.id : Entry }
    let waited := if s.scrub.offered.isSome then min 64 (s.arbiter.scrubWait + 1) else s.arbiter.scrubWait
    (∀ z, s.window.offered = some (.read, z) →
      admitFrom .win s =
        { s with
          paq := s.paq ++ [entry .win z s.window.address.toNat .window 0], nextEntry := s.nextEntry + 1
          window := { s.window with offered := none }, arbiter := { s.arbiter with scrubWait := waited } })
    ∧ (s.scrub.offered = some .read →
      admitFrom .scrub s =
        { s with
          paq := s.paq ++ [entry .scrub .full s.scrub.pointer .scrubRecord 0], nextEntry := s.nextEntry + 1
          scrub := { s.scrub with offered := none, record := .reading s.scrub.pointer false }
          arbiter := { s.arbiter with scrubWait := 0 } })
    ∧ ∀ (c : Fin 5) (k : Fin 64) (z : Size) (a q : Nat) (i : Fin 8),
        s.channels[c].offered = some { kind := .read, size := z, address := a, sequence := q } →
        s.channels[c].current = some k → s.channels[c].returns[i] = .free →
        (∀ j : Fin 8, j < i → s.channels[c].returns[j] ≠ .free) →
        admitFrom (.ch c) s = offerNext c
          { s with
            paq := s.paq ++ [entry (.ch c) z a (.returnSlot c i) q], nextEntry := s.nextEntry + 1
            arbiter := { turnAfter s c s.arbiter with scrubWait := waited }
            channels := s.channels.set c
              { s.channels[c] with
                returns := s.channels[c].returns.set i (.reserved q z (a / 16 % 2))
                nextAddress := s.channels[c].nextAddress + (match z with
                  | .full => 32
                  | .half => 16)
                unitsLeft := s.channels[c].unitsLeft - (match z with
                  | .full => 2
                  | .half => 1)
                nextSequence := s.channels[c].nextSequence + 1, outstanding := s.channels[c].outstanding + 1
                offered := none } }

/-- The admission of a WRITE with its words: the lowest free WDB slot takes them, the entry joins the tail with every older access
to its burst as predecessor, and the scrub record of the same burst is superseded or its offered write-back abandoned with the
step ended (R34, R35, R37, R150). -/
def Obligations.AdmissionOfWrites : Prop :=
  ∀ (src : Source) (o : Offer) (words : List Word) (i : Fin 16) (s : State),
    o.kind = .write → s.wdb[i] = none → (∀ j : Fin 16, j < i → s.wdb[j].isSome = true) →
    ∃ t, enqueueWrite src o words s = t
      ∧ t.wdb = s.wdb.set i (some words) ∧ t.nextEntry = s.nextEntry + 1
      ∧ t.paq = s.paq ++
          [{ id := s.nextEntry, source := src, kind := .write, size := o.size, address := o.address, buffer := .wdb i,
             sequence := o.sequence, bypass := 0, cap := s.bypassCap, overdue := false
             predecessors := (s.paq.filter fun e => burstOf e.address = burstOf o.address).map fun e => e.id }]
      ∧ (src = .scrub ∨ s.scrub.record.burst ≠ some (burstOf o.address) →
          t.scrub = s.scrub ∧ t.arbiter = s.arbiter)
      ∧ (∀ x, src ≠ .scrub → s.scrub.record = .reading (burstOf o.address) x →
          t.scrub = { s.scrub with record := .reading (burstOf o.address) true } ∧ t.arbiter = s.arbiter)
      ∧ (∀ held, src ≠ .scrub → s.scrub.record = .writing (burstOf o.address) held →
          (s.scrub.offered = none → t.scrub = s.scrub ∧ t.arbiter = s.arbiter)
          ∧ (s.scrub.offered = some .writeBack →
              t.scrub.record = .empty ∧ t.scrub.offered = none ∧ t.arbiter.scrubWait = 0
              ∧ t.scrub.timer = some (s.scrub.interval.toNat * 256)
              ∧ t.scrub.pointer =
                (if s.layers * 536870912 ≤ s.scrub.pointer + 32 then 0 else s.scrub.pointer + 32)))
      ∧ t = { s with
          wdb := t.wdb, paq := t.paq, nextEntry := t.nextEntry, scrub := t.scrub, arbiter := t.arbiter }

/-- What each source moves into the WDB slot at the admission of its write: PATTERN in every word for FILL, the return slot at the
delivery pointer for COPY, the window buffer, the held burst for the scrub, and the words at the head of the FIFO for INBOUND.
Under STOP_ON_MARK the words up to the first mark leave the FIFO, padded with zero words to the end of its half burst; a FULL access
marked in its first four words becomes a HALF; the range ends (R36, R115, R116, R119, R120). And what the admission of a write
does to the arbiter: the scrub's wait count rises by one, to at most 64, at another source's admission while the scrub offers,
and falls to 0 at its own; a channel's admission moves the turn as AdmissionOrder gives (R31, R33). -/
def Obligations.WriteData : Prop :=
  ∀ s : State,
    let waited := if s.scrub.offered.isSome then min 64 (s.arbiter.scrubWait + 1) else s.arbiter.scrubWait
    (∀ z, s.window.offered = some (.write, z) →
      admitFrom .win s = enqueueWrite .win
        { kind := .write, size := z, address := s.window.address.toNat, sequence := 0 }
        (let word := fun i : Fin 8 => s.window.buffer[2 * i.val + 1] ++ s.window.buffer[2 * i.val]
         match z with
         | .full => [word 0, word 1, word 2, word 3, word 4, word 5, word 6, word 7]
         | .half =>
           if s.window.address.toNat / 16 % 2 = 0 then [word 0, word 1, word 2, word 3]
           else [word 4, word 5, word 6, word 7])
        { s with
          window := { s.window with offered := none }, arbiter := { s.arbiter with scrubWait := waited } })
    ∧ (∀ b held, s.scrub.offered = some .writeBack → s.scrub.record = .writing b held →
      admitFrom .scrub s = enqueueWrite .scrub { kind := .write, size := .full, address := b, sequence := 0 } held
        { s with scrub := { s.scrub with offered := none }, arbiter := { s.arbiter with scrubWait := 0 } })
    ∧ (∀ (c : Fin 5) (k : Fin 64) (o : Offer), s.channels[c].offered = some o → s.channels[c].current = some k →
        o.kind = .write →
        let turned := { turnAfter s c s.arbiter with scrubWait := waited }
        (s.slots[k].op = .fill → admitFrom (.ch c) s = offerNext c (enqueueWrite (.ch c) o
          (List.replicate (wordsOf o.size) s.slots[k].pattern)
          { s with channels := s.channels.set c (s.channels[c].advance o), arbiter := turned }))
        ∧ (∀ (i : Fin 8) (q h : Nat) (z : Size) (words : List Word), s.slots[k].op = .copy →
            s.channels[c].returns[i] = .filled q z h words → q = s.channels[c].delivery →
            (∀ j : Fin 8, j < i → isFilledWith s.channels[c].delivery s.channels[c].returns[j] = false) →
            admitFrom (.ch c) s = offerNext c (enqueueWrite (.ch c) o words
              { s with
                arbiter := turned
                channels := s.channels.set c
                  { s.channels[c] with
                    returns := s.channels[c].returns.set i .free, delivery := s.channels[c].delivery + 1
                    outstanding := s.channels[c].outstanding + 1, offered := none } }))
        ∧ (∀ p : Fin 4, p.val = c.val → s.slots[k].op = .inbound →
            s.slots[k].stopOnMark = false ∨ (∀ w ∈ s.ports[p].fifo.take (wordsOf o.size), w.2 = false) →
            wordsOf o.size ≤ s.ports[p].fifo.length →
            admitFrom (.ch c) s = offerNext c (enqueueWrite (.ch c) o
              ((s.ports[p].fifo.take (wordsOf o.size)).map fun w => w.1)
              { s with
                arbiter := turned
                ports := s.ports.set p { s.ports[p] with fifo := s.ports[p].fifo.drop (wordsOf o.size) }
                channels := s.channels.set c (s.channels[c].advance o) }))
        ∧ (∀ (p : Fin 4) (i : Nat), p.val = c.val → s.slots[k].op = .inbound → s.slots[k].stopOnMark = true →
            i < wordsOf o.size → (∃ v, s.ports[p].fifo[i]? = some (v, true)) →
            (∀ (j : Nat) (x : Word × Bool), j < i → s.ports[p].fifo[j]? = some x → x.2 = false) →
            let size : Size := if i < 4 then .half else .full
            admitFrom (.ch c) s = offerNext c (enqueueWrite (.ch c) { o with size := size }
              ((s.ports[p].fifo.take (i + 1)).map (fun w => w.1) ++
                List.replicate (if i < 4 then 3 - i else 7 - i) 0#32)
              { s with
                arbiter := turned
                ports := s.ports.set p { s.ports[p] with fifo := s.ports[p].fifo.drop (i + 1) }
                channels := s.channels.set c
                  { s.channels[c] with
                    nextAddress := s.channels[c].nextAddress + (if i < 4 then 16 else 32), unitsLeft := 0
                    nextSequence := s.channels[c].nextSequence + 1, outstanding := s.channels[c].outstanding + 1
                    offered := none, endedByMark := true } }))
        ∧ s.channels[c].advance o =
          { s.channels[c] with
            nextAddress := s.channels[c].nextAddress + (match o.size with
              | .full => 32
              | .half => 16)
            unitsLeft := s.channels[c].unitsLeft - (match o.size with
              | .full => 2
              | .half => 1)
            nextSequence := s.channels[c].nextSequence + 1, outstanding := s.channels[c].outstanding + 1
            offered := none })
    ∧ (∀ (n : Nat) (fifo : List (Word × Bool)) (i : Nat), i < n → i < fifo.length →
        (∀ x, fifo[i]? = some x → x.2 = true) → (∀ j x, j < i → fifo[j]? = some x → x.2 = false) →
        inboundTake true n fifo = some (i + 1, true))
    ∧ (∀ (o : Offer) (words : List Word), 1 ≤ words.length → words.length ≤ 4 → o.size = .full →
        fillAccess o words = ({ o with size := .half }, words ++ List.replicate (4 - words.length) 0#32))
    ∧ ∀ (o : Offer) (words : List Word), 5 ≤ words.length → words.length ≤ 8 → o.size = .full →
        fillAccess o words = (o, words ++ List.replicate (8 - words.length) 0#32)

/-! ### The ends of data phases, data protection, the scrub (03, 06, 08) -/

/-- RETURN: the READ at the head of the issued list, its data phase ended, leaves the list; its words are classed, the class is
recorded, and the data goes to its destination; a transfer reset that this leaves with nothing issued ends (R66, R144, R184). A
return takes the worst class of its words; repaired words are handed on repaired, an UNCORRECTABLE return wholly as read (R143,
R145, R182; log 27). The model's own: the data is the stack's word with the bits the operand names (log 5), and the first 32-bit
word is the low half of the 64 (log 6). -/
def Obligations.ReturnOfTheHead : Prop :=
  (∀ (flips : List StackWord) (s : State) (e : Issued) (rest : List Issued), s.pinHeld = false →
    s.issued = e :: rest → e.kind = .read → e.ends ≤ s.mclk →
    let judged := classReturn s ((List.range (match e.size with
      | .full => 4
      | .half => 2)).map fun i => s.stackWord (e.address / 8 + i) ^^^ flips.getD i 0#72)
    let done := deliver e judged.1 judged.2
      (recordClass judged.1 (e.address / 32 * 32) e.source { s with issued := rest })
    exec (.ret flips) s = .next (endTransferReset done)
      ∧ (s.transferReset = false → exec (.ret flips) s = .next done)
      ∧ (s.protectEn = false → judged.1 = .clean))
    ∧ ∀ (s : State) (words : List StackWord),
    let judge := fun w : StackWord => classWord Config.checkCode.code (w.setWidth 64) ((w >>> 64).setWidth 8)
    let halves := fun d : BitVec 64 => [d.setWidth 32, (d >>> 32).setWidth 32]
    let asRead := words.flatMap fun w => halves (w.setWidth 64)
    (s.protectEn = false → classReturn s words = (.clean, asRead))
    ∧ (s.protectEn = true → (∃ w ∈ words, (judge w).1 = .uncorrectable) →
        classReturn s words = (.uncorrectable, asRead))
    ∧ (s.protectEn = true → (∀ w ∈ words, (judge w).1 ≠ .uncorrectable) → (∃ w ∈ words, (judge w).1 = .corrected) →
        classReturn s words = (.corrected, words.flatMap fun w => halves (judge w).2))
    ∧ (s.protectEn = true → (∀ w ∈ words, (judge w).1 = .clean) → classReturn s words = (.clean, asRead))

/-- A return at each destination. Window: the buffer takes the data and the command ends DONE or DATA_ERROR, or ABORTED with the
buffer as it was under a transfer reset. Scrub record: a CORRECTED return not superseded, with SCRUB_EN on, makes a write-back
ready; every other return in READING ends the step. Channel: the slot fills for a LIVE run, or for a STOPPED one below its stop
point; an UNCORRECTABLE return stops a run or lowers its stop point, every FILLED slot at or above it becomes FREE and an offered
read is withdrawn; all else is discarded (R117, R123, R145, R151, R182). -/
def Obligations.ReturnDestinations : Prop :=
  ∀ (e : Issued) (k : WordClass) (words : List Word) (s : State),
    (e.buffer = .window →
      (s.transferReset = true → deliver e k words s =
        { s.raise .windowDone with window := { s.window with status := .aborted, offered := none } })
      ∧ (s.transferReset = false → ∃ t, deliver e k words s = t
        ∧ t.window.status = (if k = .uncorrectable then .dataError else .done) ∧ t.window.address = s.window.address
        ∧ (∀ (i : Fin 16) (w : Word),
            words[i.val / 2 - (if e.size = .half then 4 * (e.address / 16 % 2) else 0)]? = some w →
            (e.size = .half → 4 * (e.address / 16 % 2) ≤ i.val / 2) →
            t.window.buffer[i] = if i.val % 2 = 0 then w.setWidth 16 else (w >>> 16).setWidth 16)
        ∧ (∀ i : Fin 16, e.size = .half → words.length = 4 → i.val / 8 ≠ e.address / 16 % 2 →
            t.window.buffer[i] = s.window.buffer[i])
        ∧ t = { s.raise .windowDone with window := t.window }))
    ∧ (∀ b x, e.buffer = .scrubRecord → s.scrub.record = .reading b x →
      (k = .corrected → x = false → s.scrub.enable = true → deliver e k words s =
        { s with scrub := { s.scrub with record := .writing b words, offered := some .writeBack } })
      ∧ (¬ (k = .corrected ∧ x = false ∧ s.scrub.enable = true) → deliver e k words s = scrubStepEnd s))
    ∧ (e.buffer = .scrubRecord → s.scrub.record = .empty → deliver e k words s = s)
    ∧ ∀ (c : Fin 5) (i : Fin 8), e.buffer = .returnSlot c i →
        let ch := { s.channels[c] with outstanding := s.channels[c].outstanding - 1 }
        let live := ch.state = .run ∧ ch.runMode = some .live
        let stopped := ch.state = .run ∧ ch.runMode = some .stopped
        (k ≠ .uncorrectable → (live ∨ (stopped ∧ ∃ p, ch.stopPoint = some p ∧ e.sequence < p)) →
          deliver e k words s = settleChannel c
            { s with
              channels := s.channels.set c
                { ch with returns := ch.returns.set i (.filled e.sequence e.size (e.address / 16 % 2) words) } })
        ∧ (k ≠ .uncorrectable → ¬ (live ∨ (stopped ∧ ∃ p, ch.stopPoint = some p ∧ e.sequence < p)) →
          deliver e k words s = settleChannel c
            { s with channels := s.channels.set c { ch with returns := ch.returns.set i .free } })
        ∧ (k = .uncorrectable → ¬ live → ¬ stopped →
          deliver e k words s = settleChannel c
            { s with channels := s.channels.set c { ch with returns := ch.returns.set i .free } })
        ∧ (∀ p, k = .uncorrectable →
            ((live ∧ ch.stopPoint = none ∧ p = e.sequence)
              ∨ (stopped ∧ ∃ q, ch.stopPoint = some q ∧ p = min q e.sequence)) →
          deliver e k words s = settleChannel c
            { s with
              channels := s.channels.set c
                { ch with
                  runMode := some .stopped, stopPoint := some p
                  returns := Vector.ofFn fun j => match (ch.returns.set i .free)[j] with
                    | .filled q z h held => if p ≤ q then .free else .filled q z h held
                    | r => r
                  offered := ch.offered.filter fun o => o.kind = .write } })

/-- DATA_SENT: the WRITE at the head of the issued list, its data phase ended, leaves the list; its words stand in the stack with
their check codes and no other word changes; its WDB slot is free; its source is told (R35, R67, R142, R182). What a WRITE sent
is what a later READ of it returns, CLEAN, under either setting of PROTECT_EN (R67, R142, R143). That the first 32-bit word is the
low half of the 64 is the model's choice (log 6). -/
def Obligations.DataSent : Prop :=
  (∀ (s : State) (e : Issued) (rest : List Issued) (i : Fin 16) (words : List Word), s.pinHeld = false →
    s.issued = e :: rest → e.kind = .write → e.ends ≤ s.mclk → e.buffer = .wdb i → s.wdb[i] = some words →
    words.length = wordsOf e.size →
    ∃ t, exec .dataSent s = .next t
      ∧ t.issued = rest ∧ t.wdb = s.wdb.set i none
      ∧ (∀ (j : Nat) (lo hi : Word), words[2 * j]? = some lo → words[2 * j + 1]? = some hi →
          t.stackWord (e.address / 8 + j) =
            (if s.protectEn then Config.checkCode.code (hi ++ lo) else 0#8) ++ (hi ++ lo))
      ∧ (∀ a, a < e.address / 8 ∨ e.address / 8 + stackWordsOf e.size ≤ a → t.stackWord a = s.stackWord a)
      ∧ (e.source = .win → t.window = { s.window with status := .done, offered := none } ∧ t.flag .windowDone = true)
      ∧ (∀ (b : Nat) (held : List Word), e.source = .scrub → s.scrub.record = .writing b held →
          t.scrub = s.scrub.stepEnd (s.layers * 536870912))
      ∧ (∀ c : Fin 5, e.source = .ch c → s.transferReset = false → s.channels[c].formerSlot = none →
          t = settleChannel c
            { s with
              issued := rest, wdb := t.wdb, stack := t.stack
              channels := s.channels.set c
                { s.channels[c] with
                  outstanding := s.channels[c].outstanding - 1
                  unitsReached := s.channels[c].unitsReached + (match e.size with
                    | .full => 2
                    | .half => 1) } })
      ∧ (∀ (c : Fin 5) (k : Fin 64), e.source = .ch c → s.channels[c].formerSlot = some k →
          t.slots[k].doneUnits = s.channels[c].unitsReached + (match e.size with
            | .full => 2
            | .half => 1))
      ∧ t.paq = s.paq ∧ t.banks = s.banks ∧ t.ports = s.ports ∧ t.faults = s.faults)
    ∧ ∀ (s : State) (a : Nat) (z : Size) (words : List Word), words.length = wordsOf z →
    let t := storeWords a words s
    classReturn t ((List.range (stackWordsOf z)).map fun i => t.stackWord (a / 8 + i)) = (.clean, words)

/-- Classing a word, for every check code that the manual allows: no wrong bit is CLEAN, any single wrong bit of the 72 is
repaired, and any two wrong bits are UNCORRECTABLE with the data as read (R142, R143). -/
def Obligations.WordClassing : Prop :=
  ∀ (code : BitVec 64 → BitVec 8) (d : BitVec 64), SecDed code →
    classWord code d (code d) = (.clean, d)
    ∧ (∀ i, i < 64 → classWord code (d ^^^ oneBit 64 i) (code d) = (.corrected, d))
    ∧ (∀ i, i < 8 → classWord code d (code d ^^^ oneBit 8 i) = (.corrected, d))
    ∧ (∀ i j, i < j → j < 64 → classWord code (d ^^^ oneBit 64 i ^^^ oneBit 64 j) (code d)
        = (.uncorrectable, d ^^^ oneBit 64 i ^^^ oneBit 64 j))
    ∧ (∀ i j, i < 64 → j < 8 → classWord code (d ^^^ oneBit 64 i) (code d ^^^ oneBit 8 j)
        = (.uncorrectable, d ^^^ oneBit 64 i))
    ∧ ∀ i j, i < j → j < 8 → classWord code d (code d ^^^ oneBit 8 i ^^^ oneBit 8 j) = (.uncorrectable, d)

/-- While the reset pin is not held and no transfer reset is active, CLEAR_FAULTS completes, in every port state: it empties the
fault record and touches no flag and nothing else; under a transfer reset it is refused. With a return before it the record is empty; with a
return after it the record shows that return alone. Either way the return's flag is raised; a return's recording changes the
record and its flag alone, a CLEAN return's nothing (R144, R146, R147). -/
def Obligations.ClearFaultsAndRecord : Prop :=
  ∀ (s : State) (burst : Nat) (src : Source), s.pinHeld = false →
    let none : FaultRecord := { first := none, more := false, uncorrectable := 0, corrected := 0, lastCorrected := none }
    let cleared : State := { s with faults := none }
    (s.transferReset = true → exec .clearFaults s = .next (s.refuse .resetBusy 0#8))
    ∧ (s.transferReset = false → exec .clearFaults s = .next cleared)
    ∧ (s.transferReset = false → ∀ k, exec .clearFaults (recordClass k burst src s) =
        .next { recordClass k burst src s with faults := none })
    ∧ (∀ t : State, recordClass .clean burst src t = t)
    ∧ (s.transferReset = false → exec .clearFaults (recordClass .corrected burst src s) =
        .next { s.raise .dataCorrected with faults := none })
    ∧ (s.transferReset = false → exec .clearFaults (recordClass .uncorrectable burst src s) =
        .next { s.raise .dataUncorrectable with faults := none })
    ∧ recordClass .clean burst src cleared = cleared
    ∧ recordClass .corrected burst src cleared =
        { s.raise .dataCorrected with faults := { none with corrected := 1, lastCorrected := some burst } }
    ∧ recordClass .uncorrectable burst src cleared =
        { s.raise .dataUncorrectable with faults := { none with first := some (burst, src), uncorrectable := 1 } }
    ∧ recordClass .corrected burst src s =
        { s.raise .dataCorrected with
          faults := { s.faults with corrected := min 65535 (s.faults.corrected + 1), lastCorrected := some burst } }
    ∧ (∀ f, s.faults.first = some f → recordClass .uncorrectable burst src s =
        { s.raise .dataUncorrectable with
          faults := { s.faults with more := true, uncorrectable := min 255 (s.faults.uncorrectable + 1) } })
    ∧ (s.faults.first = Option.none → recordClass .uncorrectable burst src s =
        { s.raise .dataUncorrectable with
          faults :=
            { s.faults with first := some (burst, src), uncorrectable := min 255 (s.faults.uncorrectable + 1) } })

/-- SCRUB_EN_WRITE and SCRUB_INTERVAL_EXPIRY: turning the scrub on loads the timer, turning it off abandons an offered access; the
expiry offers a read of the pointer's burst, the pointer first wrapping with the pass count where it lies outside the capacity
(R148, R149, R153). That the expired timer is stopped until its next load is log 12 (DEDUCED). -/
def Obligations.ScrubControl : Prop :=
  ∀ s : State, Working s →
    let full := some (s.scrub.interval.toNat * 256)
    (s.scrub.enable = false → exec (.scrubEnWrite 1#16) s = .next
      { s with scrub := { s.scrub with enable := true, timer := full } })
    ∧ (s.scrub.enable = true → exec (.scrubEnWrite 1#16) s = .next s)
    ∧ (s.scrub.enable = false → exec (.scrubEnWrite 0#16) s = .next s)
    ∧ (s.scrub.enable = true → s.scrub.offered = none → exec (.scrubEnWrite 0#16) s = .next
      { s with scrub := { s.scrub with enable := false } })
    ∧ (s.scrub.enable = true → s.scrub.offered ≠ none → exec (.scrubEnWrite 0#16) s = .next
      { s with
        scrub := { s.scrub with enable := false, offered := none, record := .empty, timer := full }
        arbiter := { s.arbiter with scrubWait := 0 } })
    ∧ (∀ v : Reg, v ≠ 0#16 → v ≠ 1#16 → exec (.scrubEnWrite v) s = .next (s.refuse .timingInvalid 0xC8#8))
    ∧ (s.scrub.timer = some 0 → s.scrub.enable = true → s.port.state = .online → s.port.stopPending = false →
        s.scrub.record = .empty → s.scrub.offered = none →
        (s.scrub.pointer < s.layers * 536870912 → exec .scrubIntervalExpiry s = .next
          { s with scrub := { s.scrub with timer := none, offered := some .read } })
        ∧ (s.layers * 536870912 ≤ s.scrub.pointer → exec .scrubIntervalExpiry s = .next
          { s with
            scrub :=
              { s.scrub with
                timer := none, offered := some .read, pointer := 0, passCount := s.scrub.passCount + 1 } }))
    ∧ scrubStepEnd s =
        { s with
          scrub :=
            { s.scrub with
              pointer := if s.layers * 536870912 ≤ s.scrub.pointer + 32 then 0 else s.scrub.pointer + 32
              passCount :=
                if s.layers * 536870912 ≤ s.scrub.pointer + 32 then s.scrub.passCount + 1 else s.scrub.passCount
              record := .empty, timer := full } }

/-! ### The window, completions, flags (10, 11) -/

/-- WINDOW_READ and WINDOW_WRITE: the five cases of R181 in their order. -/
def Obligations.WindowCommands : Prop :=
  ∀ (z : Size) (k : Kind) (i : Instr) (s : State), s.pinHeld = false →
    (i = .windowRead z ∧ k = .read) ∨ (i = .windowWrite z ∧ k = .write) →
    let bytes := match z with
      | .full => 32
      | .half => 16
    let bad := s.window.address.toNat % bytes ≠ 0 ∨ s.layers * 536870912 < s.window.address.toNat + bytes
    let serving := s.port.state = .online ∧ s.port.stopPending = false
    let ended := fun x : WindowStatus =>
      ({ s.raise .windowDone with window := { s.window with status := x, offered := none } } : State)
    (s.transferReset = true → exec i s = .next (s.refuse .resetBusy 0#8))
    ∧ (s.transferReset = false → s.window.status = .busy → exec i s = .next (s.refuse .windowBusy 0#8))
    ∧ (s.transferReset = false → s.window.status ≠ .busy → bad → exec i s = .next (ended .rangeError))
    ∧ (s.transferReset = false → s.window.status ≠ .busy → ¬ bad → ¬ serving →
        exec i s = .next (ended .notOnline))
    ∧ (s.transferReset = false → s.window.status ≠ .busy → ¬ bad → serving →
        exec i s = .next { s with window := { s.window with status := .busy, offered := some (k, z) } })

/-- POP: the head leaves; the freed place goes to the waiting poster with the lowest number, whose record joins the tail with the
next sequence number and whose run then goes on; the holdoff timer and latch act on the queue as it then stands; an empty queue
refuses with CQ_EMPTY (R168, R169, R171). The holdoff timer's expiry sets the latch. CQ_READY is the level of R172. The interrupt
request line is active exactly while a flag is set whose enable is on (R175). -/
def Obligations.PopAndCoalescing : Prop :=
  (∀ s : State, Working s →
    let load := if s.cq.holdoff = 0 then none else some (s.cq.holdoff * 64)
    (s.cq.queue = [] → exec .pop s = .next (s.refuse .cqEmpty 0#8))
    ∧ (∀ x, s.cq.queue = [x] → (∀ c : Fin 5, s.channels[c].pendingRecord = none) →
        exec .pop s = .next { s with cq := { s.cq with queue := [], timer := none, latch := false } })
    ∧ (∀ x y rest, s.cq.queue = x :: y :: rest → (∀ c : Fin 5, s.channels[c].pendingRecord = none) →
        exec .pop s = .next { s with cq := { s.cq with queue := y :: rest, timer := load } })
    ∧ ∀ x y rest (c : Fin 5) (k : Fin 64) (r : PendingRecord), s.cq.queue = x :: y :: rest →
        s.channels[c].pendingRecord = some r → s.channels[c].current = some k →
        (∀ d : Fin 5, d < c → s.channels[d].pendingRecord = none) →
        exec .pop s = .next (finishRun c k
          { s with
            cq :=
              { s.cq with
                queue := y :: rest ++
                  [{ sequence := s.cq.nextSequence, slot := r.slot, channel := r.channel, result := r.result,
                     tag := r.tag, doneUnits := r.doneUnits }]
                nextSequence := s.cq.nextSequence + 1, timer := load } }))
    ∧ (∀ s : State, s.pinHeld = false →
    (s.cq.timer = some 0 → exec .holdoffExpiry s = .next { s with cq := { s.cq with timer := none, latch := true } })
    ∧ (s.flags.getLsbD 0 = false →
        (s.flag .cqReady = true ↔
          s.cq.threshold ≤ s.cq.queue.length ∨ (s.cq.latch = true ∧ s.cq.queue ≠ [])))
    ∧ (∀ f : Flag, f ≠ .cqReady → s.flag f = s.flags.getLsbD f.position)
    ∧ (s.irqLine = true ↔ ∃ f : Flag, s.flag f = true ∧ s.mask.getLsbD f.position = true))

/-- FLAG_CLEAR, taken in every state and never refused: exactly the flags written with one clear, a clear of LINK_REFUSED or
RENEW_OVERRUN reaches the channels or the overrun notes, and CQ_READY keeps its level. MASK_WRITE sets the enables the register
covers and no others (R172, R174, R175, R178). The 26 flags' places in FLAGS_A (0 to 15) and FLAGS_B (16 and up) by 11.7, and
what raising one does: it alone becomes set, and nothing else changes (R173). -/
def Obligations.FlagClearAndMaskWrite : Prop :=
  (Flag.position .cqReady = 0 ∧ (∀ c : Fin 5, Flag.position (.channelHalted c) = 1 + c.val)
      ∧ Flag.position .linkRefused = 6 ∧ (∀ p : Fin 4, Flag.position (.portOverrun p) = 7 + p.val)
      ∧ (∀ p : Fin 4, Flag.position (.portUnderrun p) = 11 + p.val) ∧ Flag.position .dataCorrected = 15
      ∧ Flag.position .dataUncorrectable = 16 ∧ Flag.position .renewOverrun = 17 ∧ Flag.position .calFail = 18
      ∧ Flag.position .portOnline = 19 ∧ Flag.position .portFault = 20 ∧ Flag.position .parkDone = 21
      ∧ Flag.position .unparkDone = 22 ∧ Flag.position .windowDone = 23 ∧ Flag.position .hostRefused = 24
      ∧ Flag.position .tresetDone = 25)
    ∧ (∀ (f : Flag) (s : State),
        (∀ j, j < 26 → (s.raise f).flags.getLsbD j = (s.flags.getLsbD j || decide (j = f.position)))
        ∧ s.raise f = { s with flags := (s.raise f).flags })
    ∧ ∀ (r : FlagReg) (v : Reg) (s : State), s.pinHeld = false →
    let base := match r with
      | .a => 0
      | .b => 16
    let named := fun j : Nat => base ≤ j ∧ j < base + 16 ∧ v.getLsbD (j - base) = true
    (∃ t, exec (.flagClear r v) s = .next t
      ∧ (∀ j, j < 26 → t.flags.getLsbD j = (s.flags.getLsbD j && !decide (named j)))
      ∧ t.cqReady = s.cqReady
      ∧ (∀ c : Fin 5, t.channels[c] =
          if named 6 then { s.channels[c] with lastRefused := none } else s.channels[c])
      ∧ (∀ l : Fin 2, t.renews[l] = if named 17 then { s.renews[l] with overrun := false } else s.renews[l])
      ∧ t = { s with flags := t.flags, channels := t.channels, renews := t.renews })
    ∧ (s.transferReset = true → exec (.maskWrite r v) s =
        .next (s.refuse .resetBusy (match r with
          | .a => 4#8
          | .b => 5#8)))
    ∧ (s.transferReset = false → ∃ t, exec (.maskWrite r v) s = .next t
      ∧ (∀ j, j < 26 → t.mask.getLsbD j =
          if base ≤ j ∧ j < base + 16 then v.getLsbD (j - base) else s.mask.getLsbD j)
      ∧ t = { s with mask := t.mask })

/-! ### Host writes and reads (05, 11) -/

/-- DESCRIPTOR_FIELD_WRITE: taken into the selected slot's field on the selected page while the slot is HOST, other fields kept;
refused with SLOT_BUSY in TAKEN and RUNNING, READ_ONLY for the read-only registers, TIMING_INVALID for an OP or LINK that names
nothing (R88, R89, R92, R180). -/
def Obligations.DescriptorFieldWrite : Prop :=
  ∀ (f : Fin 8) (v : Reg) (s : State), Working s →
    let k := s.slotSelect
    let d := s.slots[k]
    let r := BitVec.ofNat 8 (9 + f.val)
    let writes := fun x : Slot => exec (.descriptorFieldWrite f v) s = .next { s with slots := s.slots.set k x }
    (f.val = 7 ∨ (f.val = 6 ∧ s.page = true) → exec (.descriptorFieldWrite f v) s = .next (s.refuse .readOnly r))
    ∧ (f.val < 6 ∨ (f.val = 6 ∧ s.page = false) → d.owner ≠ .host →
        exec (.descriptorFieldWrite f v) s = .next (s.refuse .slotBusy r))
    ∧ (d.owner = .host → s.page = false →
        (f.val = 0 → ∀ op, (op = .inbound ∧ v.toNat % 8 = 0) ∨ (op = .outbound ∧ v.toNat % 8 = 1)
          ∨ (op = .copy ∧ v.toNat % 8 = 2) ∨ (op = .fill ∧ v.toNat % 8 = 3) → writes { d with op := op })
        ∧ (f.val = 0 → 4 ≤ v.toNat % 8 →
            exec (.descriptorFieldWrite f v) s = .next (s.refuse .timingInvalid r))
        ∧ (f.val = 1 → writes { d with addr := BitVec.ofNat 30 (d.addr.toNat / 65536 * 65536 + v.toNat) })
        ∧ (f.val = 2 → writes { d with addr := BitVec.ofNat 30 (v.toNat % 16384 * 65536 + d.addr.toNat % 65536) })
        ∧ (f.val = 3 → writes { d with units := v })
        ∧ (∀ l : Fin 64, f.val = 4 → v.toNat % 128 = l.val → writes { d with link := some l })
        ∧ (f.val = 4 → v.toNat % 128 = 127 → writes { d with link := none })
        ∧ (f.val = 4 → 64 ≤ v.toNat % 128 → v.toNat % 128 < 127 →
            exec (.descriptorFieldWrite f v) s = .next (s.refuse .timingInvalid r))
        ∧ (f.val = 5 → writes { d with notify := v.getLsbD 0 })
        ∧ (f.val = 6 → writes { d with tag := v }))
    ∧ (d.owner = .host → s.page = true →
        (f.val = 0 → writes { d with dest := BitVec.ofNat 30 (d.dest.toNat / 65536 * 65536 + v.toNat) })
        ∧ (f.val = 1 → writes { d with dest := BitVec.ofNat 30 (v.toNat % 16384 * 65536 + d.dest.toNat % 65536) })
        ∧ (f.val = 2 → writes
            { d with pattern := BitVec.ofNat 32 (d.pattern.toNat / 65536 * 65536 + v.toNat) })
        ∧ (f.val = 3 → writes { d with pattern := BitVec.ofNat 32 (v.toNat * 65536 + d.pattern.toNat % 65536) })
        ∧ (f.val = 4 → writes { d with stopOnMark := v.getLsbD 0 })
        ∧ (f.val = 5 → writes { d with markAtEnd := v.getLsbD 0 }))

/-- PAIRED_LOW_READ: the low register's value goes out and the whole item is captured, the other captures kept; the high register
then reads the captured part, until the next read of the low register (R177). What every other register reads as, by the map
and the codes of 11.7 (R81, R128, R130, R160, R167, R173, R180); the registers C0, C1, C4, C5, CA, CB, CD and CE of the paired
items and the codes of a fault's source. A plain read is a function of the state: log 18. -/
def Obligations.RegisterReads : Prop :=
  (∀ (item : PairedItem) (s : State), s.pinHeld = false →
    ∃ t, exec (.pairedLowRead item) s = .next t
      ∧ t = { s with hostData := t.hostData, captures := t.captures }
      ∧ t.hostData = readRegister s (lowRegister item)
      ∧ (readRegister s (lowRegister item)).toNat = pairedValue s item % 65536
      ∧ (pairedValue s item < 4294967296 →
          (readRegister t (highRegister item)).toNat = pairedValue s item / 65536)
      ∧ (∀ u : State, u.pinHeld = false → u.captures = t.captures →
          readRegister u (highRegister item) = readRegister t (highRegister item))
      ∧ (item = .scrubPointer → pairedValue s item = s.scrub.pointer / 32)
      ∧ (∀ a src, item = .firstFault → s.faults.first = some (a, src) →
          pairedValue s item = a / 32 + 65536 * 1024 * sourceCode src + (if s.faults.more then 65536 * 32768 else 0))
      ∧ (∀ a, item = .lastCorrected → s.faults.lastCorrected = some a → pairedValue s item = a / 32 + 65536 * 32768)
      ∧ (∀ b x, item = .scrubRecord → s.scrub.record = .reading b x → pairedValue s item = b / 32 + 65536 * 8192)
      ∧ (∀ b held, item = .scrubRecord → s.scrub.record = .writing b held →
          pairedValue s item = b / 32 + 65536 * 16384)
      ∧ (item = .scrubRecord → s.scrub.record = .empty → pairedValue s item / 65536 / 8192 = 0)
      ∧ (item = .firstFault → s.faults.first = none → s.faults.more = false → pairedValue s item / 65536 / 1024 = 7)
      ∧ (item = .lastCorrected → s.faults.lastCorrected = none → pairedValue s item / 65536 / 32768 = 0)
      ∧ (item ≠ .firstFault → t.captures.firstFault = s.captures.firstFault)
      ∧ (item ≠ .lastCorrected → t.captures.lastCorrected = s.captures.lastCorrected)
      ∧ (item ≠ .scrubPointer → t.captures.scrubPointer = s.captures.scrubPointer)
      ∧ (item ≠ .scrubRecord → t.captures.scrubRecord = s.captures.scrubRecord))
    ∧ (lowRegister .firstFault = 0xC0#8 ∧ highRegister .firstFault = 0xC1#8 ∧ lowRegister .lastCorrected = 0xC4#8
      ∧ highRegister .lastCorrected = 0xC5#8 ∧ lowRegister .scrubPointer = 0xCA#8 ∧ highRegister .scrubPointer = 0xCB#8
      ∧ lowRegister .scrubRecord = 0xCD#8 ∧ highRegister .scrubRecord = 0xCE#8)
    ∧ (sourceCode .win = 0 ∧ (∀ c : Fin 5, sourceCode (.ch c) = 1 + c.val) ∧ sourceCode .scrub = 6)
    ∧ ∀ s : State, s.pinHeld = false →
    let reads := fun (x n : Nat) => readRegister s (BitVec.ofNat 8 x) = BitVec.ofNat 16 n
    let bit := fun (i : Nat) (b : Bool) => if b = true then 2 ^ i else 0
    let slotCode := fun k : Option (Fin 64) => match k with
      | some j => j.val
      | none => 127
    let resultCode := fun r : Result => match r with
      | .none => 0
      | .done => 1
      | .endedByMark => 2
      | .cancelled => 3
      | .failedFormat => 4
      | .failedRange => 5
      | .failedOverlap => 6
      | .failedData => 7
    let portCode := match s.port.state with
      | .offline => 0
      | .starting => 1
      | .calibrating => 2
      | .online => 3
      | .parking => 4
      | .parked => 5
      | .unparking => 6
      | .recalibrating => 7
      | .fault => 8
    let sweepTap := match s.port.sweep with
      | .none => 0
      | .requested tap => tap.val
      | .inFlight tap _ => tap.val
    let refusalCode := match s.refusal.code with
      | .none => 0
      | .slotBusy => 1
      | .slotNotHost => 2
      | .queueFull => 3
      | .channelState => 4
      | .configLocked => 5
      | .portState => 6
      | .timingInvalid => 7
      | .windowBusy => 8
      | .cqEmpty => 9
      | .resetBusy => 10
      | .readOnly => 11
    let channelCode := fun x : ChannelState => match x with
      | .off => 0
      | .idle => 1
      | .run => 2
      | .postWait => 3
      | .cancelling => 4
      | .halted => 5
    let windowCode := match s.window.status with
      | .idle => 0
      | .busy => 1
      | .done => 2
      | .dataError => 3
      | .rangeError => 4
      | .notOnline => 5
      | .aborted => 6
    let calCode := fun x : CalResult => match x with
      | .none => 0
      | .ok => 1
      | .fail => 2
      | .skipped => 3
    let d := s.slots[s.slotSelect]
    reads 0x01 (refusalCode + 256 * s.refusal.index.toNat)
    ∧ (∀ f : Flag, s.flagView.getLsbD f.position = s.flag f)
    ∧ reads 0x02 (s.flagView.toNat % 65536) ∧ reads 0x03 (s.flagView.toNat / 65536)
    ∧ reads 0x04 (s.mask.toNat % 65536) ∧ reads 0x05 (s.mask.toNat / 65536)
    ∧ reads 0x06 (portCode + bit 4 s.port.stopPending + bit 5 s.transferReset + 256 * sweepTap)
    ∧ reads 0x08 (s.slotSelect.val + bit 8 s.page)
    ∧ (s.page = false →
        reads 0x09 (match d.op with
          | .inbound => 0
          | .outbound => 1
          | .copy => 2
          | .fill => 3)
        ∧ reads 0x0A (d.addr.toNat % 65536) ∧ reads 0x0B (d.addr.toNat / 65536) ∧ reads 0x0C d.units.toNat
        ∧ reads 0x0D (slotCode d.link) ∧ reads 0x0E (bit 0 d.notify) ∧ reads 0x0F d.tag.toNat
        ∧ reads 0x10
            ((match d.owner with
              | .host => 0
              | .taken => 1
              | .running => 2)
            + 16 * (match d.holder with
              | some c => c.val
              | none => 7)
            + 256 * resultCode d.result))
    ∧ (s.page = true →
        reads 0x09 (d.dest.toNat % 65536) ∧ reads 0x0A (d.dest.toNat / 65536) ∧ reads 0x0B (d.pattern.toNat % 65536)
        ∧ reads 0x0C (d.pattern.toNat / 65536) ∧ reads 0x0D (bit 0 d.stopOnMark) ∧ reads 0x0E (bit 0 d.markAtEnd)
        ∧ reads 0x0F d.doneUnits ∧ reads 0x10 0)
    ∧ (s.cq.queue = [] → reads 0x14 0 ∧ reads 0x15 0 ∧ reads 0x16 0 ∧ reads 0x17 0)
    ∧ (∀ x rest, s.cq.queue = x :: rest →
        reads 0x14 x.sequence.toNat ∧ reads 0x15 (x.slot.val + 256 * x.channel.val + 4096 * resultCode x.result)
        ∧ reads 0x16 x.tag.toNat ∧ reads 0x17 x.doneUnits)
    ∧ reads 0x18 s.cq.queue.length ∧ reads 0x19 s.cq.nextSequence.toNat ∧ reads 0x1A s.cq.threshold
    ∧ reads 0x1B s.cq.holdoff ∧ reads 0x20 (s.window.address.toNat % 65536)
    ∧ reads 0x21 (s.window.address.toNat / 65536) ∧ reads 0x22 windowCode
    ∧ (∀ i : Fin 16, readRegister s (BitVec.ofNat 8 (0x30 + i.val)) = s.window.buffer[i])
    ∧ (∀ c : Fin 5,
        let ch := s.channels[c]
        let at_ := 0x40 + 8 * c.val
        reads at_ (channelCode ch.state + 256 * slotCode ch.current)
        ∧ reads (at_ + 1)
            (ch.queue.length + 256 * ((List.finRange 8).filter fun i => ch.returns[i] ≠ .free).length)
        ∧ reads (at_ + 2) ch.unitsReached ∧ reads (at_ + 3) ch.outstanding ∧ reads (at_ + 4) (slotCode ch.lastRefused)
        ∧ reads (at_ + 5) ch.weight ∧ reads (at_ + 6) ch.boundsBase ∧ reads (at_ + 7) ch.boundsLimit)
    ∧ (∀ p : Fin 4,
        reads (0x68 + 3 * p.val) (if s.ports[p].direction = .outward then 1 else 0)
        ∧ reads (0x69 + 3 * p.val) (bit 0 s.ports[p].enable)
        ∧ reads (0x6A + 3 * p.val) (s.ports[p].fifo.length + bit 8 (s.portReady p)))
    ∧ reads 0x74 s.paq.length ∧ reads 0x75 ((List.finRange 16).filter fun i => s.wdb[i].isSome).length
    ∧ reads 0x76 (s.paq.filter fun e => e.overdue).length
    ∧ reads 0x77 s.bypassCap ∧ reads 0x78 (if s.rowPolicy = .shutAfterUse then 1 else 0) ∧ reads 0x79 s.idleShut
    ∧ reads 0x7A (bit 0 s.renewEn) ∧ reads 0x7B s.layers ∧ reads 0x7C (bit 0 s.protectEn) ∧ reads 0x7D s.minWin
    ∧ (∀ i : Fin 21, reads (0x80 + i.val) s.params[i])
    ∧ (∀ l : Fin 2,
        (s.fitted l = false → reads (0x98 + 2 * l.val) 0 ∧ reads (0x99 + 2 * l.val) 0)
        ∧ (s.fitted l = true →
            reads (0x98 + 2 * l.val)
              ((s.renews[l].debt % 32).toNat + bit 8 s.renews[l].urgent
                + bit 9 s.layerRecords[l].renewing.isSome + bit 10 s.renews[l].overrun)
            ∧ reads (0x99 + 2 * l.val) s.renews[l].count.toNat))
    ∧ (∀ i : Fin 5,
        let x := s.port.lanes[i]
        let at_ := 0xA0 + 4 * i.val
        reads at_ (x.passing.toNat % 65536) ∧ reads (at_ + 1) (x.passing.toNat / 65536)
        ∧ reads (at_ + 2) (x.windowStart + 256 * x.windowLength + 16384 * calCode x.result)
        ∧ reads (at_ + 3) (x.chosenTap + 256 * x.captureDelay))
    ∧ reads 0xC2 s.faults.uncorrectable ∧ reads 0xC3 s.faults.corrected ∧ reads 0xC8 (bit 0 s.scrub.enable)
    ∧ reads 0xC9 s.scrub.interval.toNat ∧ reads 0xCC s.scrub.passCount.toNat
    ∧ ∀ x : Nat, x = 0 ∨ x = 7 ∨ (0x11 ≤ x ∧ x ≤ 0x13) ∨ (0x1C ≤ x ∧ x ≤ 0x1F) ∨ (0x23 ≤ x ∧ x ≤ 0x2F) ∨ x = 0x7E
        ∨ x = 0x7F ∨ (0x95 ≤ x ∧ x ≤ 0x97) ∨ (0x9C ≤ x ∧ x ≤ 0x9F) ∨ (0xB4 ≤ x ∧ x ≤ 0xBF) ∨ x = 0xC6 ∨ x = 0xC7
        ∨ (0xCF ≤ x ∧ x ≤ 0xFF) → reads x 0

/-- REGISTER_WRITE of the items with a range: in range the item takes the value and nothing else changes; outside it the write is
refused with TIMING_INVALID; the items of R4, from A2C at 80 to XPT at 94 with R4's ranges, and of R156 are locked outside OFFLINE
and FAULT, the bounds outside OFF (R4, R32, R39, R62, R63, R79, R111, R141, R148, R156, R170). LAYERS_WRITE likewise, with the
renew items of a layer left unfitted at their reset values (R2). That it is taken, and changes no run, while a descriptor is
RUNNING is the model's choice (log 28). -/
def Obligations.RegisterWriteItems : Prop :=
  (∀ (v : Reg) (s : State), Working s →
    let opened := s.port.state = .offline ∨ s.port.state = .fault
    let item := fun (x : Nat) (low high : Nat) (t : State) =>
      (low ≤ v.toNat ∧ v.toNat ≤ high → exec (.registerWrite (BitVec.ofNat 8 x) v) s = .next t)
        ∧ (¬ (low ≤ v.toNat ∧ v.toNat ≤ high) →
            exec (.registerWrite (BitVec.ofNat 8 x) v) s = .next (s.refuse .timingInvalid (BitVec.ofNat 8 x)))
    let locked := fun (x : Nat) => exec (.registerWrite (BitVec.ofNat 8 x) v) s =
      .next (s.refuse .configLocked (BitVec.ofNat 8 x))
    item 0x77 1 63 { s with bypassCap := v.toNat }
    ∧ item 0x78 0 1 { s with rowPolicy := if v = 0#16 then .keep else .shutAfterUse }
    ∧ item 0x79 0 255 { s with idleShut := v.toNat }
    ∧ item 0x7A 0 1 { s with renewEn := v = 1#16 }
    ∧ item 0x1A 1 32 { s with cq := { s.cq with threshold := v.toNat } }
    ∧ item 0x1B 0 65535 { s with cq := { s.cq with holdoff := v.toNat } }
    ∧ item 0xC9 1 65535 { s with scrub := { s.scrub with interval := v } }
    ∧ (∀ c : Fin 5,
        item (0x45 + 8 * c.val) 1 8 { s with channels := s.channels.set c { s.channels[c] with weight := v.toNat } }
        ∧ (s.channels[c].state = .off →
            item (0x46 + 8 * c.val) 0 16384
              { s with channels := s.channels.set c { s.channels[c] with boundsBase := v.toNat } }
            ∧ item (0x47 + 8 * c.val) 0 16384
              { s with channels := s.channels.set c { s.channels[c] with boundsLimit := v.toNat } })
        ∧ (s.channels[c].state ≠ .off → ∀ x, x = 0x46 + 8 * c.val ∨ x = 0x47 + 8 * c.val →
            exec (.registerWrite (BitVec.ofNat 8 x) v) s = .next (s.refuse .channelState (BitVec.ofNat 8 x))))
    ∧ (opened → item 0x7C 0 1 { s with protectEn := v = 1#16 } ∧ item 0x7D 1 16 { s with minWin := v.toNat }
        ∧ ∀ (i : Fin 21) (low high : Nat),
            (i.val ≤ 6 ∨ (9 ≤ i.val ∧ i.val ≤ 13)) ∧ low = 1 ∧ high = 63
              ∨ (i.val = 7 ∨ i.val = 8) ∧ low = 4 ∧ high = 63 ∨ (i.val = 14 ∨ i.val = 20) ∧ low = 16 ∧ high = 1023
              ∨ i.val = 15 ∧ low = 0 ∧ high = 15 ∨ (i.val = 16 ∨ i.val = 17) ∧ low = 4 ∧ high = 31
              ∨ i.val = 18 ∧ low = 16 ∧ high = 4095 ∨ i.val = 19 ∧ low = 1 ∧ high = 65535 →
            item (0x80 + i.val) low high { s with params := s.params.set i v.toNat })
    ∧ (s.params.toList = ([.a2c, .sht, .opm, .orc, .osn, .osf, .own, .csn, .csf, .w2rn, .w2rf, .r2w, .r2s, .wrs, .rnw,
        .lsw, .rdl, .wdl, .ri, .settle, .xpt] : List Param).map fun x => s.param x)
    ∧ (¬ opened → locked 0x7C ∧ locked 0x7D ∧ ∀ i : Fin 21, locked (0x80 + i.val)))
    ∧ (∀ (v : Reg) (s : State), Working s →
    let opened := s.port.state = .offline ∨ s.port.state = .fault
    (opened → v = 1#16 → exec (.layersWrite v) s = .next
      { s with
        layers := 1
        renews := s.renews.set 1 { timer := none, debt := 0, urgent := false, count := 0, overrun := false } })
    ∧ (opened → v = 2#16 → exec (.layersWrite v) s = .next { s with layers := 2 })
    ∧ (opened → v ≠ 1#16 → v ≠ 2#16 → exec (.layersWrite v) s = .next (s.refuse .timingInvalid 0x7B#8))
    ∧ (¬ opened → exec (.layersWrite v) s = .next (s.refuse .configLocked 0x7B#8)))

/-- REGISTER_WRITE of the window's address and buffer, of SLOT_SELECT, of a read-only or unnamed register, and of the command
register, where the word's command does its work and a code that names none is refused (R177, R179, R180, R181, the map of 11.7).
DEDUCED in it: the bits above the window address's high part are ignored (log 15), and a REGISTER_WRITE of the command register
does the command's work (log 17). -/
def Obligations.RegisterWriteOthers : Prop :=
  ∀ (v : Reg) (s : State), Working s →
    let readOnly := fun x : Nat =>
      x = 0x01 ∨ x = 0x06 ∨ x = 0x07 ∨ (0x11 ≤ x ∧ x ≤ 0x19) ∨ (0x1C ≤ x ∧ x ≤ 0x1F) ∨ (0x22 ≤ x ∧ x ≤ 0x2F)
        ∨ (0x40 ≤ x ∧ x ≤ 0x67 ∧ x % 8 < 5) ∨ (0x68 ≤ x ∧ x ≤ 0x73 ∧ (x - 0x68) % 3 = 2)
        ∨ (0x74 ≤ x ∧ x ≤ 0x76) ∨ x = 0x7E ∨ x = 0x7F ∨ (0x95 ≤ x ∧ x ≤ 0xC7) ∨ (0xCA ≤ x ∧ x ≤ 0xFF)
    let addressed := fun n : Nat => ({ s with window := { s.window with address := BitVec.ofNat 30 n } } : State)
    (∀ x, readOnly x → exec (.registerWrite (BitVec.ofNat 8 x) v) s =
        .next (s.refuse .readOnly (BitVec.ofNat 8 x)))
    ∧ (∀ k : Fin 64, v.toNat % 64 = k.val → exec (.registerWrite 0x08#8 v) s =
        .next { s with slotSelect := k, page := v.getLsbD 8 })
    ∧ (s.window.status ≠ .busy →
        exec (.registerWrite 0x20#8 v) s = .next (addressed (s.window.address.toNat / 65536 * 65536 + v.toNat))
        ∧ exec (.registerWrite 0x21#8 v) s = .next
          (addressed (v.toNat % 16384 * 65536 + s.window.address.toNat % 65536))
        ∧ ∀ i : Fin 16, exec (.registerWrite (BitVec.ofNat 8 (0x30 + i.val)) v) s = .next
          { s with window := { s.window with buffer := s.window.buffer.set i v } })
    ∧ (s.window.status = .busy → ∀ x, x = 0x20 ∨ x = 0x21 ∨ (0x30 ≤ x ∧ x ≤ 0x3F) →
        exec (.registerWrite (BitVec.ofNat 8 x) v) s = .next (s.refuse .windowBusy (BitVec.ofNat 8 x)))
    ∧ (∀ i, decodeCommand v = some i → exec (.registerWrite 0#8 v) s = exec i s)
    ∧ (v.toNat / 2048 = 0 ∨ (16 ≤ v.toNat / 2048 ∧ v.toNat / 2048 ≤ 29) →
        exec (.registerWrite 0#8 v) s = .next (s.refuse .timingInvalid 0#8))

/-- While a transfer reset is active every host write is refused with RESET_BUSY and its register's index recorded, but for a
DEVICE RESET and a write to the flag registers; a refusal changes the refusal record and HOST_REFUSED alone (R178). SUBMIT to a
number that names no channel is refused by its own first test (R94); a command word whose code names nothing is refused with
RESET_BUSY. -/
def Obligations.RefusedDuringTransferReset : Prop :=
  ∀ s : State, s.pinHeld = false → s.transferReset = true →
    let busy := fun (i : Instr) (x : BitVec 8) =>
      exec i s = .next
        { s with refusal := { code := .resetBusy, index := x }, flags := s.flags ||| oneBit 26 24 }
    (∀ (t : State) (code : RefusalCode) (x : BitVec 8), t.refuse code x =
        { t with refusal := { code := code, index := x }, flags := t.flags ||| oneBit 26 24 })
    ∧ (∀ index : BitVec 8, hasOwnRow index = true ↔
        let x := index.toNat
        x = 0 ∨ (2 ≤ x ∧ x ≤ 5) ∨ (9 ≤ x ∧ x ≤ 0x10) ∨ (∃ p : Fin 4, x = 0x68 + 3 * p.val ∨ x = 0x69 + 3 * p.val)
          ∨ x = 0x7B ∨ x = 0xC8)
    ∧ (∀ (n : Fin 8) (k : Fin 64), n.val < 5 → busy (.submit n k) 0#8)
    ∧ (∀ n : Fin 8, busy (.enable n) 0#8 ∧ busy (.disable n) 0#8 ∧ busy (.cancel n) 0#8 ∧ busy (.resume n) 0#8
        ∧ busy (.flush n) 0#8)
    ∧ (busy .start 0#8 ∧ busy .recal 0#8 ∧ busy .stop 0#8 ∧ busy .park 0#8 ∧ busy .unpark 0#8 ∧ busy .clearFaults 0#8
        ∧ busy .pop 0#8 ∧ busy .transferReset 0#8)
    ∧ (∀ z, busy (.windowRead z) 0#8 ∧ busy (.windowWrite z) 0#8)
    ∧ (∀ v, busy (.maskWrite .a v) 4#8 ∧ busy (.maskWrite .b v) 5#8 ∧ busy (.layersWrite v) 0x7B#8
        ∧ busy (.scrubEnWrite v) 0xC8#8)
    ∧ (∀ (f : Fin 8) v, busy (.descriptorFieldWrite f v) (BitVec.ofNat 8 (9 + f.val)))
    ∧ (∀ (p : Fin 4) v, busy (.portDirectionWrite p v) (BitVec.ofNat 8 (0x68 + 3 * p.val))
        ∧ busy (.portEnableWrite p v) (BitVec.ofNat 8 (0x69 + 3 * p.val)))
    ∧ (∀ index v, hasOwnRow index = false → busy (.registerWrite index v) index)
    ∧ (∀ (n : Fin 8) (k : Fin 64), 5 ≤ n.val → exec (.submit n k) s = .next (s.refuse .timingInvalid 0#8))
    ∧ ∀ v : Reg, v.toNat / 2048 = 0 ∨ (16 ≤ v.toNat / 2048 ∧ v.toNat / 2048 ≤ 29) → busy (.registerWrite 0#8 v) 0#8

/-- TRANSFER_RESET with accesses on the issued list: what the start does to each block. The end, in its own event or in that of a
TRANSFER_RESET that finds nothing issued (R29, R43, R90, R105, R106, R127, R153, R176, R182, R184). DEDUCED in it: the flags clear before WINDOW_DONE and
TRESET_DONE are raised (log 13), and TRANSFER_RESET_END ends a reset with nothing issued (log 19). -/
def Obligations.TransferReset : Prop :=
  (∀ s : State, Working s → s.issued ≠ [] →
    ∃ t, exec .transferReset s = .next t
      ∧ t.transferReset = true ∧ t.paq = [] ∧ t.issued = s.issued ∧ nextSource t = none
      ∧ (∀ c : Fin 5, t.channels[c].state = .off ∧ t.channels[c].queue = [] ∧ t.channels[c].current = none
          ∧ t.channels[c].runMode = none ∧ t.channels[c].pendingRecord = none ∧ t.channels[c].offered = none
          ∧ t.channels[c].lastRefused = none ∧ t.channels[c].weight = s.channels[c].weight
          ∧ t.channels[c].boundsBase = s.channels[c].boundsBase
          ∧ t.channels[c].boundsLimit = s.channels[c].boundsLimit)
      ∧ (∀ i : Fin 16,
          ((∃ e ∈ s.paq, e.buffer = .wdb i) → t.wdb[i] = none)
          ∧ ((∀ e ∈ s.paq, e.buffer ≠ .wdb i) → t.wdb[i] = s.wdb[i]))
      ∧ (∀ (c : Fin 5) (i : Fin 8),
          ((∃ e ∈ s.paq, e.buffer = .returnSlot c i) → t.channels[c].returns[i] = .free)
          ∧ ((∀ e ∈ s.paq, e.buffer ≠ .returnSlot c i) → t.channels[c].returns[i] =
              match s.channels[c].returns[i] with
              | .filled _ _ _ _ => .free
              | r => r))
      ∧ (∀ c : Fin 5, t.channels[c].outstanding =
            s.channels[c].outstanding - (s.paq.filter fun e => e.source = .ch c).length
          ∧ t.channels[c].unitsReached = s.channels[c].unitsReached
          ∧ t.channels[c].formerSlot = s.channels[c].current)
      ∧ (∀ k : Fin 64,
          (s.slots[k].owner = .host → t.slots[k] = s.slots[k])
          ∧ (s.slots[k].owner = .taken → t.slots[k] =
              { s.slots[k] with owner := .host, holder := none, result := .cancelled, doneUnits := 0 })
          ∧ (∀ c : Fin 5, s.slots[k].owner = .running → s.slots[k].holder = some c → t.slots[k] =
              { s.slots[k] with
                owner := .host, holder := none, result := .cancelled, doneUnits := s.channels[c].unitsReached }))
      ∧ (∀ p : Fin 4, t.ports[p] = { s.ports[p] with fifo := [] })
      ∧ (t.cq.queue = [] ∧ t.cq.nextSequence = 0 ∧ t.cq.timer = none ∧ t.cq.latch = false
          ∧ t.cq.threshold = s.cq.threshold ∧ t.cq.holdoff = s.cq.holdoff)
      ∧ (t.scrub.record = .empty ∧ t.scrub.offered = none ∧ t.scrub.pointer = s.scrub.pointer
          ∧ t.scrub.timer = some (s.scrub.interval.toNat * 256))
      ∧ t.arbiter = { turn := 0, remaining := s.channels[(0 : Fin 5)].weight, scrubWait := 0 }
      ∧ (∀ j, j < 26 → j ≠ 23 →
          t.flags.getLsbD j = (s.flags.getLsbD j && decide (j = 16 ∨ j = 17 ∨ j = 18 ∨ j = 20)))
      ∧ (s.window.status ≠ .busy → t.window = { s.window with status := .idle } ∧ t.flags.getLsbD 23 = false)
      ∧ (s.window.status = .busy → (s.window.offered.isSome = true ∨ ∃ e ∈ s.paq, e.source = .win) →
          t.window = { s.window with status := .aborted, offered := none } ∧ t.flags.getLsbD 23 = true)
      ∧ (s.window.status = .busy → s.window.offered = none → (∀ e ∈ s.paq, e.source ≠ .win) →
          t.window = s.window ∧ t.flags.getLsbD 23 = false)
      ∧ t = { s with
          transferReset := true, paq := [], wdb := t.wdb, channels := t.channels, slots := t.slots, ports := t.ports
          cq := t.cq, scrub := t.scrub, arbiter := t.arbiter, flags := t.flags, window := t.window })
    ∧ ((∀ s : State, s.pinHeld = false → s.transferReset = true → s.issued = [] →
    ∃ t, exec .transferResetEnd s = .next t
      ∧ t.transferReset = false ∧ t.flags = (s.raise .tresetDone).flags
      ∧ (∀ c : Fin 5, t.channels[c] =
          { s.channels[c] with
            nextAddress := 0, unitsLeft := 0, nextSequence := 0, delivery := 0, stopPoint := none
            returns := Vector.replicate 8 .free, unitsReached := 0, outstanding := 0, endedByMark := false
            formerSlot := none })
      ∧ t = { s with transferReset := false, flags := t.flags, channels := t.channels })
    ∧ ∀ s : State, Working s → s.issued = [] →
        ∃ t, exec .transferReset s = .next t ∧ t.transferReset = false ∧ t.flag .tresetDone = true
          ∧ t.paq = [] ∧ ∀ c : Fin 5, t.channels[c].state = .off ∧ t.channels[c].outstanding = 0
            ∧ t.channels[c].unitsReached = 0 ∧ ∀ i : Fin 8, t.channels[c].returns[i] = .free)

/-! ### Frames -/

/-- SUBMIT, ENABLE, DISABLE, CANCEL, RESUME and POP change nothing but the slots, the channels, the completion unit, the flags and
the refusal record. Only DATA_SENT writes a word of the stack: every other command leaves every word as it was, but for those
that lose the contents, a device reset and the entry to OFFLINE or FAULT (R67, R87). -/
def Obligations.Frames : Prop :=
  (∀ (i : Instr) (s t : State),
    (∃ n k, i = .submit n k) ∨ (∃ n, i = .enable n ∨ i = .disable n ∨ i = .cancel n ∨ i = .resume n) ∨ i = .pop →
    exec i s = .next t →
    t = { s with slots := t.slots, channels := t.channels, cq := t.cq, flags := t.flags, refusal := t.refusal })
    ∧ (∀ (i : Instr) (s t : State), exec i s = .next t →
    i ≠ .dataSent → i ≠ .deviceReset → i ≠ .resetPin → (∀ v : Reg, v.toNat / 2048 = 31 → i ≠ .registerWrite 0#8 v) →
    (t.port.state = s.port.state ∨ (t.port.state ≠ .offline ∧ t.port.state ≠ .fault)) →
    ∀ a, t.stackWord a = s.stackWord a)

/-! ### Headline results -/

/-- The command register's words: every host command with every operand decodes from its encoding, and a word that decodes has
the code of its command. The 17 codes of 11.7 with the fields of R179: a word is decoded by its code in bits 15 to 11, the number
in bits 10 to 8, the size in bit 7 and the slot in bits 5 to 0, a command reading only the fields it uses; the encoding puts the
fields a command uses there. That it puts zero in the others is the model's choice among the words that 11.3 allows: "A command
reads only the fields it uses, and the others are ignored." -/
def Obligations.CommandWordRoundTrip : Prop :=
  (∀ (i : Instr) (v : Reg), encodeCommand i = some v → decodeCommand v = some i)
    ∧ (∀ (v : Reg) (i : Instr), decodeCommand v = some i →
        ∃ w, encodeCommand i = some w ∧ w.toNat / 2048 = v.toNat / 2048)
    ∧ (∀ (v : Reg) (n : Fin 8) (k : Fin 64) (z : Size), n.val = v.toNat / 256 % 8 → k.val = v.toNat % 64 →
        (z = .half ↔ v.getLsbD 7 = true) →
        decodeCommand v = match v.toNat / 2048 with
          | 1 => some (.submit n k)
          | 2 => some (.enable n)
          | 3 => some (.disable n)
          | 4 => some (.cancel n)
          | 5 => some (.resume n)
          | 6 => some (.flush n)
          | 7 => some .start
          | 8 => some .recal
          | 9 => some .stop
          | 10 => some .park
          | 11 => some .unpark
          | 12 => some .clearFaults
          | 13 => some .pop
          | 14 => some (.windowRead z)
          | 15 => some (.windowWrite z)
          | 30 => some .transferReset
          | 31 => some .deviceReset
          | _ => none)
    ∧ ∀ (n : Fin 8) (k : Fin 64) (z : Size),
      let half := match z with
        | .full => 0
        | .half => 1
      let word := fun (code : Nat) (fields : Nat) => some (BitVec.ofNat 16 (code * 2048 + fields))
      encodeCommand (.submit n k) = word 1 (n.val * 256 + k.val)
        ∧ encodeCommand (.enable n) = word 2 (n.val * 256) ∧ encodeCommand (.disable n) = word 3 (n.val * 256)
        ∧ encodeCommand (.cancel n) = word 4 (n.val * 256) ∧ encodeCommand (.resume n) = word 5 (n.val * 256)
        ∧ encodeCommand (.flush n) = word 6 (n.val * 256) ∧ encodeCommand .start = word 7 0
        ∧ encodeCommand .recal = word 8 0 ∧ encodeCommand .stop = word 9 0 ∧ encodeCommand .park = word 10 0
        ∧ encodeCommand .unpark = word 11 0 ∧ encodeCommand .clearFaults = word 12 0 ∧ encodeCommand .pop = word 13 0
        ∧ encodeCommand (.windowRead z) = word 14 (half * 128) ∧ encodeCommand (.windowWrite z) = word 15 (half * 128)
        ∧ encodeCommand .transferReset = word 30 0 ∧ encodeCommand .deviceReset = word 31 0

/-- Every step keeps the law of the debt (R74). -/
def Obligations.DebtLawKept : Prop := ∀ s t : State, DebtLaw s → step s = .next t → DebtLaw t

/-- Every step keeps the bypass law (R40). -/
def Obligations.BypassLawKept : Prop := ∀ s t : State, BypassLaw s → step s = .next t → BypassLaw t

/-- Every step keeps the bounds of the queues, and the canonical form of the stack's contents (R7, R25, R94, R131, R167). The
canonical form is the model's own: log 5. -/
def Obligations.CapacityAndContentsKept : Prop :=
  ∀ s t : State, CapacityLaw s → ContentsLaw s → step s = .next t → CapacityLaw t ∧ ContentsLaw t

/-- Every step keeps the owner law: each slot is in exactly one owner state, in one queue exactly while TAKEN, the current slot of
one channel exactly while RUNNING (R91). -/
def Obligations.OwnerLawKept : Prop := ∀ s t : State, OwnerLaw s → step s = .next t → OwnerLaw t

/-- Every step keeps the WDB law: the slots in use are those held by writes waiting or issued, one slot per access (R35). -/
def Obligations.WdbLawKept : Prop := ∀ s t : State, WdbLaw s → step s = .next t → WdbLaw t
end

