-- ==== Sys2Proof/Laws/State.lean ====
section
/-! SUPPORT. What each update of one record of `State` does to each field: every lemma holds by `rfl`. -/

namespace Sys2Proof.Machine

/-! ### `modBank` -/

@[simp] theorem modBank_pending (s : State) (b : Fin 32) (f : Bank → Bank) :
    (s.modBank b f).pending = s.pending := rfl

@[simp] theorem modBank_pinHeld (s : State) (b : Fin 32) (f : Bank → Bank) :
    (s.modBank b f).pinHeld = s.pinHeld := rfl

@[simp] theorem modBank_mclk (s : State) (b : Fin 32) (f : Bank → Bank) :
    (s.modBank b f).mclk = s.mclk := rfl

@[simp] theorem modBank_slotTaken (s : State) (b : Fin 32) (f : Bank → Bank) :
    (s.modBank b f).slotTaken = s.slotTaken := rfl

@[simp] theorem modBank_commandBus (s : State) (b : Fin 32) (f : Bank → Bank) :
    (s.modBank b f).commandBus = s.commandBus := rfl

@[simp] theorem modBank_hostData (s : State) (b : Fin 32) (f : Bank → Bank) :
    (s.modBank b f).hostData = s.hostData := rfl

@[simp] theorem modBank_freeCount (s : State) (b : Fin 32) (f : Bank → Bank) :
    (s.modBank b f).freeCount = s.freeCount := rfl

@[simp] theorem modBank_stack (s : State) (b : Fin 32) (f : Bank → Bank) :
    (s.modBank b f).stack = s.stack := rfl

@[simp] theorem modBank_layers (s : State) (b : Fin 32) (f : Bank → Bank) :
    (s.modBank b f).layers = s.layers := rfl

@[simp] theorem modBank_params (s : State) (b : Fin 32) (f : Bank → Bank) :
    (s.modBank b f).params = s.params := rfl

@[simp] theorem modBank_banks (s : State) (b : Fin 32) (f : Bank → Bank) :
    (s.modBank b f).banks = s.banks.set b (f s.banks[b]) := rfl

@[simp] theorem modBank_clusters (s : State) (b : Fin 32) (f : Bank → Bank) :
    (s.modBank b f).clusters = s.clusters := rfl

@[simp] theorem modBank_layerRecords (s : State) (b : Fin 32) (f : Bank → Bank) :
    (s.modBank b f).layerRecords = s.layerRecords := rfl

@[simp] theorem modBank_dataBus (s : State) (b : Fin 32) (f : Bank → Bank) :
    (s.modBank b f).dataBus = s.dataBus := rfl

@[simp] theorem modBank_issued (s : State) (b : Fin 32) (f : Bank → Bank) :
    (s.modBank b f).issued = s.issued := rfl

@[simp] theorem modBank_rowPolicy (s : State) (b : Fin 32) (f : Bank → Bank) :
    (s.modBank b f).rowPolicy = s.rowPolicy := rfl

@[simp] theorem modBank_idleShut (s : State) (b : Fin 32) (f : Bank → Bank) :
    (s.modBank b f).idleShut = s.idleShut := rfl

@[simp] theorem modBank_paq (s : State) (b : Fin 32) (f : Bank → Bank) :
    (s.modBank b f).paq = s.paq := rfl

@[simp] theorem modBank_nextEntry (s : State) (b : Fin 32) (f : Bank → Bank) :
    (s.modBank b f).nextEntry = s.nextEntry := rfl

@[simp] theorem modBank_bypassCap (s : State) (b : Fin 32) (f : Bank → Bank) :
    (s.modBank b f).bypassCap = s.bypassCap := rfl

@[simp] theorem modBank_wdb (s : State) (b : Fin 32) (f : Bank → Bank) :
    (s.modBank b f).wdb = s.wdb := rfl

@[simp] theorem modBank_arbiter (s : State) (b : Fin 32) (f : Bank → Bank) :
    (s.modBank b f).arbiter = s.arbiter := rfl

@[simp] theorem modBank_renews (s : State) (b : Fin 32) (f : Bank → Bank) :
    (s.modBank b f).renews = s.renews := rfl

@[simp] theorem modBank_renewEn (s : State) (b : Fin 32) (f : Bank → Bank) :
    (s.modBank b f).renewEn = s.renewEn := rfl

@[simp] theorem modBank_slots (s : State) (b : Fin 32) (f : Bank → Bank) :
    (s.modBank b f).slots = s.slots := rfl

@[simp] theorem modBank_channels (s : State) (b : Fin 32) (f : Bank → Bank) :
    (s.modBank b f).channels = s.channels := rfl

@[simp] theorem modBank_ports (s : State) (b : Fin 32) (f : Bank → Bank) :
    (s.modBank b f).ports = s.ports := rfl

@[simp] theorem modBank_protectEn (s : State) (b : Fin 32) (f : Bank → Bank) :
    (s.modBank b f).protectEn = s.protectEn := rfl

@[simp] theorem modBank_faults (s : State) (b : Fin 32) (f : Bank → Bank) :
    (s.modBank b f).faults = s.faults := rfl

@[simp] theorem modBank_scrub (s : State) (b : Fin 32) (f : Bank → Bank) :
    (s.modBank b f).scrub = s.scrub := rfl

@[simp] theorem modBank_port (s : State) (b : Fin 32) (f : Bank → Bank) :
    (s.modBank b f).port = s.port := rfl

@[simp] theorem modBank_minWin (s : State) (b : Fin 32) (f : Bank → Bank) :
    (s.modBank b f).minWin = s.minWin := rfl

@[simp] theorem modBank_cq (s : State) (b : Fin 32) (f : Bank → Bank) :
    (s.modBank b f).cq = s.cq := rfl

@[simp] theorem modBank_flags (s : State) (b : Fin 32) (f : Bank → Bank) :
    (s.modBank b f).flags = s.flags := rfl

@[simp] theorem modBank_mask (s : State) (b : Fin 32) (f : Bank → Bank) :
    (s.modBank b f).mask = s.mask := rfl

@[simp] theorem modBank_refusal (s : State) (b : Fin 32) (f : Bank → Bank) :
    (s.modBank b f).refusal = s.refusal := rfl

@[simp] theorem modBank_slotSelect (s : State) (b : Fin 32) (f : Bank → Bank) :
    (s.modBank b f).slotSelect = s.slotSelect := rfl

@[simp] theorem modBank_page (s : State) (b : Fin 32) (f : Bank → Bank) :
    (s.modBank b f).page = s.page := rfl

@[simp] theorem modBank_window (s : State) (b : Fin 32) (f : Bank → Bank) :
    (s.modBank b f).window = s.window := rfl

@[simp] theorem modBank_captures (s : State) (b : Fin 32) (f : Bank → Bank) :
    (s.modBank b f).captures = s.captures := rfl

@[simp] theorem modBank_transferReset (s : State) (b : Fin 32) (f : Bank → Bank) :
    (s.modBank b f).transferReset = s.transferReset := rfl

/-! ### `modCluster` -/

@[simp] theorem modCluster_pending (s : State) (c : Fin 8) (f : Cluster → Cluster) :
    (s.modCluster c f).pending = s.pending := rfl

@[simp] theorem modCluster_pinHeld (s : State) (c : Fin 8) (f : Cluster → Cluster) :
    (s.modCluster c f).pinHeld = s.pinHeld := rfl

@[simp] theorem modCluster_mclk (s : State) (c : Fin 8) (f : Cluster → Cluster) :
    (s.modCluster c f).mclk = s.mclk := rfl

@[simp] theorem modCluster_slotTaken (s : State) (c : Fin 8) (f : Cluster → Cluster) :
    (s.modCluster c f).slotTaken = s.slotTaken := rfl

@[simp] theorem modCluster_commandBus (s : State) (c : Fin 8) (f : Cluster → Cluster) :
    (s.modCluster c f).commandBus = s.commandBus := rfl

@[simp] theorem modCluster_hostData (s : State) (c : Fin 8) (f : Cluster → Cluster) :
    (s.modCluster c f).hostData = s.hostData := rfl

@[simp] theorem modCluster_freeCount (s : State) (c : Fin 8) (f : Cluster → Cluster) :
    (s.modCluster c f).freeCount = s.freeCount := rfl

@[simp] theorem modCluster_stack (s : State) (c : Fin 8) (f : Cluster → Cluster) :
    (s.modCluster c f).stack = s.stack := rfl

@[simp] theorem modCluster_layers (s : State) (c : Fin 8) (f : Cluster → Cluster) :
    (s.modCluster c f).layers = s.layers := rfl

@[simp] theorem modCluster_params (s : State) (c : Fin 8) (f : Cluster → Cluster) :
    (s.modCluster c f).params = s.params := rfl

@[simp] theorem modCluster_banks (s : State) (c : Fin 8) (f : Cluster → Cluster) :
    (s.modCluster c f).banks = s.banks := rfl

@[simp] theorem modCluster_clusters (s : State) (c : Fin 8) (f : Cluster → Cluster) :
    (s.modCluster c f).clusters = s.clusters.set c (f s.clusters[c]) := rfl

@[simp] theorem modCluster_layerRecords (s : State) (c : Fin 8) (f : Cluster → Cluster) :
    (s.modCluster c f).layerRecords = s.layerRecords := rfl

@[simp] theorem modCluster_dataBus (s : State) (c : Fin 8) (f : Cluster → Cluster) :
    (s.modCluster c f).dataBus = s.dataBus := rfl

@[simp] theorem modCluster_issued (s : State) (c : Fin 8) (f : Cluster → Cluster) :
    (s.modCluster c f).issued = s.issued := rfl

@[simp] theorem modCluster_rowPolicy (s : State) (c : Fin 8) (f : Cluster → Cluster) :
    (s.modCluster c f).rowPolicy = s.rowPolicy := rfl

@[simp] theorem modCluster_idleShut (s : State) (c : Fin 8) (f : Cluster → Cluster) :
    (s.modCluster c f).idleShut = s.idleShut := rfl

@[simp] theorem modCluster_paq (s : State) (c : Fin 8) (f : Cluster → Cluster) :
    (s.modCluster c f).paq = s.paq := rfl

@[simp] theorem modCluster_nextEntry (s : State) (c : Fin 8) (f : Cluster → Cluster) :
    (s.modCluster c f).nextEntry = s.nextEntry := rfl

@[simp] theorem modCluster_bypassCap (s : State) (c : Fin 8) (f : Cluster → Cluster) :
    (s.modCluster c f).bypassCap = s.bypassCap := rfl

@[simp] theorem modCluster_wdb (s : State) (c : Fin 8) (f : Cluster → Cluster) :
    (s.modCluster c f).wdb = s.wdb := rfl

@[simp] theorem modCluster_arbiter (s : State) (c : Fin 8) (f : Cluster → Cluster) :
    (s.modCluster c f).arbiter = s.arbiter := rfl

@[simp] theorem modCluster_renews (s : State) (c : Fin 8) (f : Cluster → Cluster) :
    (s.modCluster c f).renews = s.renews := rfl

@[simp] theorem modCluster_renewEn (s : State) (c : Fin 8) (f : Cluster → Cluster) :
    (s.modCluster c f).renewEn = s.renewEn := rfl

@[simp] theorem modCluster_slots (s : State) (c : Fin 8) (f : Cluster → Cluster) :
    (s.modCluster c f).slots = s.slots := rfl

@[simp] theorem modCluster_channels (s : State) (c : Fin 8) (f : Cluster → Cluster) :
    (s.modCluster c f).channels = s.channels := rfl

@[simp] theorem modCluster_ports (s : State) (c : Fin 8) (f : Cluster → Cluster) :
    (s.modCluster c f).ports = s.ports := rfl

@[simp] theorem modCluster_protectEn (s : State) (c : Fin 8) (f : Cluster → Cluster) :
    (s.modCluster c f).protectEn = s.protectEn := rfl

@[simp] theorem modCluster_faults (s : State) (c : Fin 8) (f : Cluster → Cluster) :
    (s.modCluster c f).faults = s.faults := rfl

@[simp] theorem modCluster_scrub (s : State) (c : Fin 8) (f : Cluster → Cluster) :
    (s.modCluster c f).scrub = s.scrub := rfl

@[simp] theorem modCluster_port (s : State) (c : Fin 8) (f : Cluster → Cluster) :
    (s.modCluster c f).port = s.port := rfl

@[simp] theorem modCluster_minWin (s : State) (c : Fin 8) (f : Cluster → Cluster) :
    (s.modCluster c f).minWin = s.minWin := rfl

@[simp] theorem modCluster_cq (s : State) (c : Fin 8) (f : Cluster → Cluster) :
    (s.modCluster c f).cq = s.cq := rfl

@[simp] theorem modCluster_flags (s : State) (c : Fin 8) (f : Cluster → Cluster) :
    (s.modCluster c f).flags = s.flags := rfl

@[simp] theorem modCluster_mask (s : State) (c : Fin 8) (f : Cluster → Cluster) :
    (s.modCluster c f).mask = s.mask := rfl

@[simp] theorem modCluster_refusal (s : State) (c : Fin 8) (f : Cluster → Cluster) :
    (s.modCluster c f).refusal = s.refusal := rfl

@[simp] theorem modCluster_slotSelect (s : State) (c : Fin 8) (f : Cluster → Cluster) :
    (s.modCluster c f).slotSelect = s.slotSelect := rfl

@[simp] theorem modCluster_page (s : State) (c : Fin 8) (f : Cluster → Cluster) :
    (s.modCluster c f).page = s.page := rfl

@[simp] theorem modCluster_window (s : State) (c : Fin 8) (f : Cluster → Cluster) :
    (s.modCluster c f).window = s.window := rfl

@[simp] theorem modCluster_captures (s : State) (c : Fin 8) (f : Cluster → Cluster) :
    (s.modCluster c f).captures = s.captures := rfl

@[simp] theorem modCluster_transferReset (s : State) (c : Fin 8) (f : Cluster → Cluster) :
    (s.modCluster c f).transferReset = s.transferReset := rfl

/-! ### `modLayer` -/

@[simp] theorem modLayer_pending (s : State) (l : Fin 2) (f : LayerRecord → LayerRecord) :
    (s.modLayer l f).pending = s.pending := rfl

@[simp] theorem modLayer_pinHeld (s : State) (l : Fin 2) (f : LayerRecord → LayerRecord) :
    (s.modLayer l f).pinHeld = s.pinHeld := rfl

@[simp] theorem modLayer_mclk (s : State) (l : Fin 2) (f : LayerRecord → LayerRecord) :
    (s.modLayer l f).mclk = s.mclk := rfl

@[simp] theorem modLayer_slotTaken (s : State) (l : Fin 2) (f : LayerRecord → LayerRecord) :
    (s.modLayer l f).slotTaken = s.slotTaken := rfl

@[simp] theorem modLayer_commandBus (s : State) (l : Fin 2) (f : LayerRecord → LayerRecord) :
    (s.modLayer l f).commandBus = s.commandBus := rfl

@[simp] theorem modLayer_hostData (s : State) (l : Fin 2) (f : LayerRecord → LayerRecord) :
    (s.modLayer l f).hostData = s.hostData := rfl

@[simp] theorem modLayer_freeCount (s : State) (l : Fin 2) (f : LayerRecord → LayerRecord) :
    (s.modLayer l f).freeCount = s.freeCount := rfl

@[simp] theorem modLayer_stack (s : State) (l : Fin 2) (f : LayerRecord → LayerRecord) :
    (s.modLayer l f).stack = s.stack := rfl

@[simp] theorem modLayer_layers (s : State) (l : Fin 2) (f : LayerRecord → LayerRecord) :
    (s.modLayer l f).layers = s.layers := rfl

@[simp] theorem modLayer_params (s : State) (l : Fin 2) (f : LayerRecord → LayerRecord) :
    (s.modLayer l f).params = s.params := rfl

@[simp] theorem modLayer_banks (s : State) (l : Fin 2) (f : LayerRecord → LayerRecord) :
    (s.modLayer l f).banks = s.banks := rfl

@[simp] theorem modLayer_clusters (s : State) (l : Fin 2) (f : LayerRecord → LayerRecord) :
    (s.modLayer l f).clusters = s.clusters := rfl

@[simp] theorem modLayer_layerRecords (s : State) (l : Fin 2) (f : LayerRecord → LayerRecord) :
    (s.modLayer l f).layerRecords = s.layerRecords.set l (f s.layerRecords[l]) := rfl

@[simp] theorem modLayer_dataBus (s : State) (l : Fin 2) (f : LayerRecord → LayerRecord) :
    (s.modLayer l f).dataBus = s.dataBus := rfl

@[simp] theorem modLayer_issued (s : State) (l : Fin 2) (f : LayerRecord → LayerRecord) :
    (s.modLayer l f).issued = s.issued := rfl

@[simp] theorem modLayer_rowPolicy (s : State) (l : Fin 2) (f : LayerRecord → LayerRecord) :
    (s.modLayer l f).rowPolicy = s.rowPolicy := rfl

@[simp] theorem modLayer_idleShut (s : State) (l : Fin 2) (f : LayerRecord → LayerRecord) :
    (s.modLayer l f).idleShut = s.idleShut := rfl

@[simp] theorem modLayer_paq (s : State) (l : Fin 2) (f : LayerRecord → LayerRecord) :
    (s.modLayer l f).paq = s.paq := rfl

@[simp] theorem modLayer_nextEntry (s : State) (l : Fin 2) (f : LayerRecord → LayerRecord) :
    (s.modLayer l f).nextEntry = s.nextEntry := rfl

@[simp] theorem modLayer_bypassCap (s : State) (l : Fin 2) (f : LayerRecord → LayerRecord) :
    (s.modLayer l f).bypassCap = s.bypassCap := rfl

@[simp] theorem modLayer_wdb (s : State) (l : Fin 2) (f : LayerRecord → LayerRecord) :
    (s.modLayer l f).wdb = s.wdb := rfl

@[simp] theorem modLayer_arbiter (s : State) (l : Fin 2) (f : LayerRecord → LayerRecord) :
    (s.modLayer l f).arbiter = s.arbiter := rfl

@[simp] theorem modLayer_renews (s : State) (l : Fin 2) (f : LayerRecord → LayerRecord) :
    (s.modLayer l f).renews = s.renews := rfl

@[simp] theorem modLayer_renewEn (s : State) (l : Fin 2) (f : LayerRecord → LayerRecord) :
    (s.modLayer l f).renewEn = s.renewEn := rfl

@[simp] theorem modLayer_slots (s : State) (l : Fin 2) (f : LayerRecord → LayerRecord) :
    (s.modLayer l f).slots = s.slots := rfl

@[simp] theorem modLayer_channels (s : State) (l : Fin 2) (f : LayerRecord → LayerRecord) :
    (s.modLayer l f).channels = s.channels := rfl

@[simp] theorem modLayer_ports (s : State) (l : Fin 2) (f : LayerRecord → LayerRecord) :
    (s.modLayer l f).ports = s.ports := rfl

@[simp] theorem modLayer_protectEn (s : State) (l : Fin 2) (f : LayerRecord → LayerRecord) :
    (s.modLayer l f).protectEn = s.protectEn := rfl

@[simp] theorem modLayer_faults (s : State) (l : Fin 2) (f : LayerRecord → LayerRecord) :
    (s.modLayer l f).faults = s.faults := rfl

@[simp] theorem modLayer_scrub (s : State) (l : Fin 2) (f : LayerRecord → LayerRecord) :
    (s.modLayer l f).scrub = s.scrub := rfl

@[simp] theorem modLayer_port (s : State) (l : Fin 2) (f : LayerRecord → LayerRecord) :
    (s.modLayer l f).port = s.port := rfl

@[simp] theorem modLayer_minWin (s : State) (l : Fin 2) (f : LayerRecord → LayerRecord) :
    (s.modLayer l f).minWin = s.minWin := rfl

@[simp] theorem modLayer_cq (s : State) (l : Fin 2) (f : LayerRecord → LayerRecord) :
    (s.modLayer l f).cq = s.cq := rfl

@[simp] theorem modLayer_flags (s : State) (l : Fin 2) (f : LayerRecord → LayerRecord) :
    (s.modLayer l f).flags = s.flags := rfl

@[simp] theorem modLayer_mask (s : State) (l : Fin 2) (f : LayerRecord → LayerRecord) :
    (s.modLayer l f).mask = s.mask := rfl

@[simp] theorem modLayer_refusal (s : State) (l : Fin 2) (f : LayerRecord → LayerRecord) :
    (s.modLayer l f).refusal = s.refusal := rfl

@[simp] theorem modLayer_slotSelect (s : State) (l : Fin 2) (f : LayerRecord → LayerRecord) :
    (s.modLayer l f).slotSelect = s.slotSelect := rfl

@[simp] theorem modLayer_page (s : State) (l : Fin 2) (f : LayerRecord → LayerRecord) :
    (s.modLayer l f).page = s.page := rfl

@[simp] theorem modLayer_window (s : State) (l : Fin 2) (f : LayerRecord → LayerRecord) :
    (s.modLayer l f).window = s.window := rfl

@[simp] theorem modLayer_captures (s : State) (l : Fin 2) (f : LayerRecord → LayerRecord) :
    (s.modLayer l f).captures = s.captures := rfl

@[simp] theorem modLayer_transferReset (s : State) (l : Fin 2) (f : LayerRecord → LayerRecord) :
    (s.modLayer l f).transferReset = s.transferReset := rfl

/-! ### `modRenew` -/

@[simp] theorem modRenew_pending (s : State) (l : Fin 2) (f : Renew → Renew) :
    (s.modRenew l f).pending = s.pending := rfl

@[simp] theorem modRenew_pinHeld (s : State) (l : Fin 2) (f : Renew → Renew) :
    (s.modRenew l f).pinHeld = s.pinHeld := rfl

@[simp] theorem modRenew_mclk (s : State) (l : Fin 2) (f : Renew → Renew) :
    (s.modRenew l f).mclk = s.mclk := rfl

@[simp] theorem modRenew_slotTaken (s : State) (l : Fin 2) (f : Renew → Renew) :
    (s.modRenew l f).slotTaken = s.slotTaken := rfl

@[simp] theorem modRenew_commandBus (s : State) (l : Fin 2) (f : Renew → Renew) :
    (s.modRenew l f).commandBus = s.commandBus := rfl

@[simp] theorem modRenew_hostData (s : State) (l : Fin 2) (f : Renew → Renew) :
    (s.modRenew l f).hostData = s.hostData := rfl

@[simp] theorem modRenew_freeCount (s : State) (l : Fin 2) (f : Renew → Renew) :
    (s.modRenew l f).freeCount = s.freeCount := rfl

@[simp] theorem modRenew_stack (s : State) (l : Fin 2) (f : Renew → Renew) :
    (s.modRenew l f).stack = s.stack := rfl

@[simp] theorem modRenew_layers (s : State) (l : Fin 2) (f : Renew → Renew) :
    (s.modRenew l f).layers = s.layers := rfl

@[simp] theorem modRenew_params (s : State) (l : Fin 2) (f : Renew → Renew) :
    (s.modRenew l f).params = s.params := rfl

@[simp] theorem modRenew_banks (s : State) (l : Fin 2) (f : Renew → Renew) :
    (s.modRenew l f).banks = s.banks := rfl

@[simp] theorem modRenew_clusters (s : State) (l : Fin 2) (f : Renew → Renew) :
    (s.modRenew l f).clusters = s.clusters := rfl

@[simp] theorem modRenew_layerRecords (s : State) (l : Fin 2) (f : Renew → Renew) :
    (s.modRenew l f).layerRecords = s.layerRecords := rfl

@[simp] theorem modRenew_dataBus (s : State) (l : Fin 2) (f : Renew → Renew) :
    (s.modRenew l f).dataBus = s.dataBus := rfl

@[simp] theorem modRenew_issued (s : State) (l : Fin 2) (f : Renew → Renew) :
    (s.modRenew l f).issued = s.issued := rfl

@[simp] theorem modRenew_rowPolicy (s : State) (l : Fin 2) (f : Renew → Renew) :
    (s.modRenew l f).rowPolicy = s.rowPolicy := rfl

@[simp] theorem modRenew_idleShut (s : State) (l : Fin 2) (f : Renew → Renew) :
    (s.modRenew l f).idleShut = s.idleShut := rfl

@[simp] theorem modRenew_paq (s : State) (l : Fin 2) (f : Renew → Renew) :
    (s.modRenew l f).paq = s.paq := rfl

@[simp] theorem modRenew_nextEntry (s : State) (l : Fin 2) (f : Renew → Renew) :
    (s.modRenew l f).nextEntry = s.nextEntry := rfl

@[simp] theorem modRenew_bypassCap (s : State) (l : Fin 2) (f : Renew → Renew) :
    (s.modRenew l f).bypassCap = s.bypassCap := rfl

@[simp] theorem modRenew_wdb (s : State) (l : Fin 2) (f : Renew → Renew) :
    (s.modRenew l f).wdb = s.wdb := rfl

@[simp] theorem modRenew_arbiter (s : State) (l : Fin 2) (f : Renew → Renew) :
    (s.modRenew l f).arbiter = s.arbiter := rfl

@[simp] theorem modRenew_renews (s : State) (l : Fin 2) (f : Renew → Renew) :
    (s.modRenew l f).renews = s.renews.set l (f s.renews[l]) := rfl

@[simp] theorem modRenew_renewEn (s : State) (l : Fin 2) (f : Renew → Renew) :
    (s.modRenew l f).renewEn = s.renewEn := rfl

@[simp] theorem modRenew_slots (s : State) (l : Fin 2) (f : Renew → Renew) :
    (s.modRenew l f).slots = s.slots := rfl

@[simp] theorem modRenew_channels (s : State) (l : Fin 2) (f : Renew → Renew) :
    (s.modRenew l f).channels = s.channels := rfl

@[simp] theorem modRenew_ports (s : State) (l : Fin 2) (f : Renew → Renew) :
    (s.modRenew l f).ports = s.ports := rfl

@[simp] theorem modRenew_protectEn (s : State) (l : Fin 2) (f : Renew → Renew) :
    (s.modRenew l f).protectEn = s.protectEn := rfl

@[simp] theorem modRenew_faults (s : State) (l : Fin 2) (f : Renew → Renew) :
    (s.modRenew l f).faults = s.faults := rfl

@[simp] theorem modRenew_scrub (s : State) (l : Fin 2) (f : Renew → Renew) :
    (s.modRenew l f).scrub = s.scrub := rfl

@[simp] theorem modRenew_port (s : State) (l : Fin 2) (f : Renew → Renew) :
    (s.modRenew l f).port = s.port := rfl

@[simp] theorem modRenew_minWin (s : State) (l : Fin 2) (f : Renew → Renew) :
    (s.modRenew l f).minWin = s.minWin := rfl

@[simp] theorem modRenew_cq (s : State) (l : Fin 2) (f : Renew → Renew) :
    (s.modRenew l f).cq = s.cq := rfl

@[simp] theorem modRenew_flags (s : State) (l : Fin 2) (f : Renew → Renew) :
    (s.modRenew l f).flags = s.flags := rfl

@[simp] theorem modRenew_mask (s : State) (l : Fin 2) (f : Renew → Renew) :
    (s.modRenew l f).mask = s.mask := rfl

@[simp] theorem modRenew_refusal (s : State) (l : Fin 2) (f : Renew → Renew) :
    (s.modRenew l f).refusal = s.refusal := rfl

@[simp] theorem modRenew_slotSelect (s : State) (l : Fin 2) (f : Renew → Renew) :
    (s.modRenew l f).slotSelect = s.slotSelect := rfl

@[simp] theorem modRenew_page (s : State) (l : Fin 2) (f : Renew → Renew) :
    (s.modRenew l f).page = s.page := rfl

@[simp] theorem modRenew_window (s : State) (l : Fin 2) (f : Renew → Renew) :
    (s.modRenew l f).window = s.window := rfl

@[simp] theorem modRenew_captures (s : State) (l : Fin 2) (f : Renew → Renew) :
    (s.modRenew l f).captures = s.captures := rfl

@[simp] theorem modRenew_transferReset (s : State) (l : Fin 2) (f : Renew → Renew) :
    (s.modRenew l f).transferReset = s.transferReset := rfl

/-! ### `modSlot` -/

@[simp] theorem modSlot_pending (s : State) (k : Fin 64) (f : Slot → Slot) :
    (s.modSlot k f).pending = s.pending := rfl

@[simp] theorem modSlot_pinHeld (s : State) (k : Fin 64) (f : Slot → Slot) :
    (s.modSlot k f).pinHeld = s.pinHeld := rfl

@[simp] theorem modSlot_mclk (s : State) (k : Fin 64) (f : Slot → Slot) :
    (s.modSlot k f).mclk = s.mclk := rfl

@[simp] theorem modSlot_slotTaken (s : State) (k : Fin 64) (f : Slot → Slot) :
    (s.modSlot k f).slotTaken = s.slotTaken := rfl

@[simp] theorem modSlot_commandBus (s : State) (k : Fin 64) (f : Slot → Slot) :
    (s.modSlot k f).commandBus = s.commandBus := rfl

@[simp] theorem modSlot_hostData (s : State) (k : Fin 64) (f : Slot → Slot) :
    (s.modSlot k f).hostData = s.hostData := rfl

@[simp] theorem modSlot_freeCount (s : State) (k : Fin 64) (f : Slot → Slot) :
    (s.modSlot k f).freeCount = s.freeCount := rfl

@[simp] theorem modSlot_stack (s : State) (k : Fin 64) (f : Slot → Slot) :
    (s.modSlot k f).stack = s.stack := rfl

@[simp] theorem modSlot_layers (s : State) (k : Fin 64) (f : Slot → Slot) :
    (s.modSlot k f).layers = s.layers := rfl

@[simp] theorem modSlot_params (s : State) (k : Fin 64) (f : Slot → Slot) :
    (s.modSlot k f).params = s.params := rfl

@[simp] theorem modSlot_banks (s : State) (k : Fin 64) (f : Slot → Slot) :
    (s.modSlot k f).banks = s.banks := rfl

@[simp] theorem modSlot_clusters (s : State) (k : Fin 64) (f : Slot → Slot) :
    (s.modSlot k f).clusters = s.clusters := rfl

@[simp] theorem modSlot_layerRecords (s : State) (k : Fin 64) (f : Slot → Slot) :
    (s.modSlot k f).layerRecords = s.layerRecords := rfl

@[simp] theorem modSlot_dataBus (s : State) (k : Fin 64) (f : Slot → Slot) :
    (s.modSlot k f).dataBus = s.dataBus := rfl

@[simp] theorem modSlot_issued (s : State) (k : Fin 64) (f : Slot → Slot) :
    (s.modSlot k f).issued = s.issued := rfl

@[simp] theorem modSlot_rowPolicy (s : State) (k : Fin 64) (f : Slot → Slot) :
    (s.modSlot k f).rowPolicy = s.rowPolicy := rfl

@[simp] theorem modSlot_idleShut (s : State) (k : Fin 64) (f : Slot → Slot) :
    (s.modSlot k f).idleShut = s.idleShut := rfl

@[simp] theorem modSlot_paq (s : State) (k : Fin 64) (f : Slot → Slot) :
    (s.modSlot k f).paq = s.paq := rfl

@[simp] theorem modSlot_nextEntry (s : State) (k : Fin 64) (f : Slot → Slot) :
    (s.modSlot k f).nextEntry = s.nextEntry := rfl

@[simp] theorem modSlot_bypassCap (s : State) (k : Fin 64) (f : Slot → Slot) :
    (s.modSlot k f).bypassCap = s.bypassCap := rfl

@[simp] theorem modSlot_wdb (s : State) (k : Fin 64) (f : Slot → Slot) :
    (s.modSlot k f).wdb = s.wdb := rfl

@[simp] theorem modSlot_arbiter (s : State) (k : Fin 64) (f : Slot → Slot) :
    (s.modSlot k f).arbiter = s.arbiter := rfl

@[simp] theorem modSlot_renews (s : State) (k : Fin 64) (f : Slot → Slot) :
    (s.modSlot k f).renews = s.renews := rfl

@[simp] theorem modSlot_renewEn (s : State) (k : Fin 64) (f : Slot → Slot) :
    (s.modSlot k f).renewEn = s.renewEn := rfl

@[simp] theorem modSlot_slots (s : State) (k : Fin 64) (f : Slot → Slot) :
    (s.modSlot k f).slots = s.slots.set k (f s.slots[k]) := rfl

@[simp] theorem modSlot_channels (s : State) (k : Fin 64) (f : Slot → Slot) :
    (s.modSlot k f).channels = s.channels := rfl

@[simp] theorem modSlot_ports (s : State) (k : Fin 64) (f : Slot → Slot) :
    (s.modSlot k f).ports = s.ports := rfl

@[simp] theorem modSlot_protectEn (s : State) (k : Fin 64) (f : Slot → Slot) :
    (s.modSlot k f).protectEn = s.protectEn := rfl

@[simp] theorem modSlot_faults (s : State) (k : Fin 64) (f : Slot → Slot) :
    (s.modSlot k f).faults = s.faults := rfl

@[simp] theorem modSlot_scrub (s : State) (k : Fin 64) (f : Slot → Slot) :
    (s.modSlot k f).scrub = s.scrub := rfl

@[simp] theorem modSlot_port (s : State) (k : Fin 64) (f : Slot → Slot) :
    (s.modSlot k f).port = s.port := rfl

@[simp] theorem modSlot_minWin (s : State) (k : Fin 64) (f : Slot → Slot) :
    (s.modSlot k f).minWin = s.minWin := rfl

@[simp] theorem modSlot_cq (s : State) (k : Fin 64) (f : Slot → Slot) :
    (s.modSlot k f).cq = s.cq := rfl

@[simp] theorem modSlot_flags (s : State) (k : Fin 64) (f : Slot → Slot) :
    (s.modSlot k f).flags = s.flags := rfl

@[simp] theorem modSlot_mask (s : State) (k : Fin 64) (f : Slot → Slot) :
    (s.modSlot k f).mask = s.mask := rfl

@[simp] theorem modSlot_refusal (s : State) (k : Fin 64) (f : Slot → Slot) :
    (s.modSlot k f).refusal = s.refusal := rfl

@[simp] theorem modSlot_slotSelect (s : State) (k : Fin 64) (f : Slot → Slot) :
    (s.modSlot k f).slotSelect = s.slotSelect := rfl

@[simp] theorem modSlot_page (s : State) (k : Fin 64) (f : Slot → Slot) :
    (s.modSlot k f).page = s.page := rfl

@[simp] theorem modSlot_window (s : State) (k : Fin 64) (f : Slot → Slot) :
    (s.modSlot k f).window = s.window := rfl

@[simp] theorem modSlot_captures (s : State) (k : Fin 64) (f : Slot → Slot) :
    (s.modSlot k f).captures = s.captures := rfl

@[simp] theorem modSlot_transferReset (s : State) (k : Fin 64) (f : Slot → Slot) :
    (s.modSlot k f).transferReset = s.transferReset := rfl

/-! ### `modChannel` -/

@[simp] theorem modChannel_pending (s : State) (c : Fin 5) (f : Channel → Channel) :
    (s.modChannel c f).pending = s.pending := rfl

@[simp] theorem modChannel_pinHeld (s : State) (c : Fin 5) (f : Channel → Channel) :
    (s.modChannel c f).pinHeld = s.pinHeld := rfl

@[simp] theorem modChannel_mclk (s : State) (c : Fin 5) (f : Channel → Channel) :
    (s.modChannel c f).mclk = s.mclk := rfl

@[simp] theorem modChannel_slotTaken (s : State) (c : Fin 5) (f : Channel → Channel) :
    (s.modChannel c f).slotTaken = s.slotTaken := rfl

@[simp] theorem modChannel_commandBus (s : State) (c : Fin 5) (f : Channel → Channel) :
    (s.modChannel c f).commandBus = s.commandBus := rfl

@[simp] theorem modChannel_hostData (s : State) (c : Fin 5) (f : Channel → Channel) :
    (s.modChannel c f).hostData = s.hostData := rfl

@[simp] theorem modChannel_freeCount (s : State) (c : Fin 5) (f : Channel → Channel) :
    (s.modChannel c f).freeCount = s.freeCount := rfl

@[simp] theorem modChannel_stack (s : State) (c : Fin 5) (f : Channel → Channel) :
    (s.modChannel c f).stack = s.stack := rfl

@[simp] theorem modChannel_layers (s : State) (c : Fin 5) (f : Channel → Channel) :
    (s.modChannel c f).layers = s.layers := rfl

@[simp] theorem modChannel_params (s : State) (c : Fin 5) (f : Channel → Channel) :
    (s.modChannel c f).params = s.params := rfl

@[simp] theorem modChannel_banks (s : State) (c : Fin 5) (f : Channel → Channel) :
    (s.modChannel c f).banks = s.banks := rfl

@[simp] theorem modChannel_clusters (s : State) (c : Fin 5) (f : Channel → Channel) :
    (s.modChannel c f).clusters = s.clusters := rfl

@[simp] theorem modChannel_layerRecords (s : State) (c : Fin 5) (f : Channel → Channel) :
    (s.modChannel c f).layerRecords = s.layerRecords := rfl

@[simp] theorem modChannel_dataBus (s : State) (c : Fin 5) (f : Channel → Channel) :
    (s.modChannel c f).dataBus = s.dataBus := rfl

@[simp] theorem modChannel_issued (s : State) (c : Fin 5) (f : Channel → Channel) :
    (s.modChannel c f).issued = s.issued := rfl

@[simp] theorem modChannel_rowPolicy (s : State) (c : Fin 5) (f : Channel → Channel) :
    (s.modChannel c f).rowPolicy = s.rowPolicy := rfl

@[simp] theorem modChannel_idleShut (s : State) (c : Fin 5) (f : Channel → Channel) :
    (s.modChannel c f).idleShut = s.idleShut := rfl

@[simp] theorem modChannel_paq (s : State) (c : Fin 5) (f : Channel → Channel) :
    (s.modChannel c f).paq = s.paq := rfl

@[simp] theorem modChannel_nextEntry (s : State) (c : Fin 5) (f : Channel → Channel) :
    (s.modChannel c f).nextEntry = s.nextEntry := rfl

@[simp] theorem modChannel_bypassCap (s : State) (c : Fin 5) (f : Channel → Channel) :
    (s.modChannel c f).bypassCap = s.bypassCap := rfl

@[simp] theorem modChannel_wdb (s : State) (c : Fin 5) (f : Channel → Channel) :
    (s.modChannel c f).wdb = s.wdb := rfl

@[simp] theorem modChannel_arbiter (s : State) (c : Fin 5) (f : Channel → Channel) :
    (s.modChannel c f).arbiter = s.arbiter := rfl

@[simp] theorem modChannel_renews (s : State) (c : Fin 5) (f : Channel → Channel) :
    (s.modChannel c f).renews = s.renews := rfl

@[simp] theorem modChannel_renewEn (s : State) (c : Fin 5) (f : Channel → Channel) :
    (s.modChannel c f).renewEn = s.renewEn := rfl

@[simp] theorem modChannel_slots (s : State) (c : Fin 5) (f : Channel → Channel) :
    (s.modChannel c f).slots = s.slots := rfl

@[simp] theorem modChannel_channels (s : State) (c : Fin 5) (f : Channel → Channel) :
    (s.modChannel c f).channels = s.channels.set c (f s.channels[c]) := rfl

@[simp] theorem modChannel_ports (s : State) (c : Fin 5) (f : Channel → Channel) :
    (s.modChannel c f).ports = s.ports := rfl

@[simp] theorem modChannel_protectEn (s : State) (c : Fin 5) (f : Channel → Channel) :
    (s.modChannel c f).protectEn = s.protectEn := rfl

@[simp] theorem modChannel_faults (s : State) (c : Fin 5) (f : Channel → Channel) :
    (s.modChannel c f).faults = s.faults := rfl

@[simp] theorem modChannel_scrub (s : State) (c : Fin 5) (f : Channel → Channel) :
    (s.modChannel c f).scrub = s.scrub := rfl

@[simp] theorem modChannel_port (s : State) (c : Fin 5) (f : Channel → Channel) :
    (s.modChannel c f).port = s.port := rfl

@[simp] theorem modChannel_minWin (s : State) (c : Fin 5) (f : Channel → Channel) :
    (s.modChannel c f).minWin = s.minWin := rfl

@[simp] theorem modChannel_cq (s : State) (c : Fin 5) (f : Channel → Channel) :
    (s.modChannel c f).cq = s.cq := rfl

@[simp] theorem modChannel_flags (s : State) (c : Fin 5) (f : Channel → Channel) :
    (s.modChannel c f).flags = s.flags := rfl

@[simp] theorem modChannel_mask (s : State) (c : Fin 5) (f : Channel → Channel) :
    (s.modChannel c f).mask = s.mask := rfl

@[simp] theorem modChannel_refusal (s : State) (c : Fin 5) (f : Channel → Channel) :
    (s.modChannel c f).refusal = s.refusal := rfl

@[simp] theorem modChannel_slotSelect (s : State) (c : Fin 5) (f : Channel → Channel) :
    (s.modChannel c f).slotSelect = s.slotSelect := rfl

@[simp] theorem modChannel_page (s : State) (c : Fin 5) (f : Channel → Channel) :
    (s.modChannel c f).page = s.page := rfl

@[simp] theorem modChannel_window (s : State) (c : Fin 5) (f : Channel → Channel) :
    (s.modChannel c f).window = s.window := rfl

@[simp] theorem modChannel_captures (s : State) (c : Fin 5) (f : Channel → Channel) :
    (s.modChannel c f).captures = s.captures := rfl

@[simp] theorem modChannel_transferReset (s : State) (c : Fin 5) (f : Channel → Channel) :
    (s.modChannel c f).transferReset = s.transferReset := rfl

/-! ### `modPort` -/

@[simp] theorem modPort_pending (s : State) (p : Fin 4) (f : StreamPort → StreamPort) :
    (s.modPort p f).pending = s.pending := rfl

@[simp] theorem modPort_pinHeld (s : State) (p : Fin 4) (f : StreamPort → StreamPort) :
    (s.modPort p f).pinHeld = s.pinHeld := rfl

@[simp] theorem modPort_mclk (s : State) (p : Fin 4) (f : StreamPort → StreamPort) :
    (s.modPort p f).mclk = s.mclk := rfl

@[simp] theorem modPort_slotTaken (s : State) (p : Fin 4) (f : StreamPort → StreamPort) :
    (s.modPort p f).slotTaken = s.slotTaken := rfl

@[simp] theorem modPort_commandBus (s : State) (p : Fin 4) (f : StreamPort → StreamPort) :
    (s.modPort p f).commandBus = s.commandBus := rfl

@[simp] theorem modPort_hostData (s : State) (p : Fin 4) (f : StreamPort → StreamPort) :
    (s.modPort p f).hostData = s.hostData := rfl

@[simp] theorem modPort_freeCount (s : State) (p : Fin 4) (f : StreamPort → StreamPort) :
    (s.modPort p f).freeCount = s.freeCount := rfl

@[simp] theorem modPort_stack (s : State) (p : Fin 4) (f : StreamPort → StreamPort) :
    (s.modPort p f).stack = s.stack := rfl

@[simp] theorem modPort_layers (s : State) (p : Fin 4) (f : StreamPort → StreamPort) :
    (s.modPort p f).layers = s.layers := rfl

@[simp] theorem modPort_params (s : State) (p : Fin 4) (f : StreamPort → StreamPort) :
    (s.modPort p f).params = s.params := rfl

@[simp] theorem modPort_banks (s : State) (p : Fin 4) (f : StreamPort → StreamPort) :
    (s.modPort p f).banks = s.banks := rfl

@[simp] theorem modPort_clusters (s : State) (p : Fin 4) (f : StreamPort → StreamPort) :
    (s.modPort p f).clusters = s.clusters := rfl

@[simp] theorem modPort_layerRecords (s : State) (p : Fin 4) (f : StreamPort → StreamPort) :
    (s.modPort p f).layerRecords = s.layerRecords := rfl

@[simp] theorem modPort_dataBus (s : State) (p : Fin 4) (f : StreamPort → StreamPort) :
    (s.modPort p f).dataBus = s.dataBus := rfl

@[simp] theorem modPort_issued (s : State) (p : Fin 4) (f : StreamPort → StreamPort) :
    (s.modPort p f).issued = s.issued := rfl

@[simp] theorem modPort_rowPolicy (s : State) (p : Fin 4) (f : StreamPort → StreamPort) :
    (s.modPort p f).rowPolicy = s.rowPolicy := rfl

@[simp] theorem modPort_idleShut (s : State) (p : Fin 4) (f : StreamPort → StreamPort) :
    (s.modPort p f).idleShut = s.idleShut := rfl

@[simp] theorem modPort_paq (s : State) (p : Fin 4) (f : StreamPort → StreamPort) :
    (s.modPort p f).paq = s.paq := rfl

@[simp] theorem modPort_nextEntry (s : State) (p : Fin 4) (f : StreamPort → StreamPort) :
    (s.modPort p f).nextEntry = s.nextEntry := rfl

@[simp] theorem modPort_bypassCap (s : State) (p : Fin 4) (f : StreamPort → StreamPort) :
    (s.modPort p f).bypassCap = s.bypassCap := rfl

@[simp] theorem modPort_wdb (s : State) (p : Fin 4) (f : StreamPort → StreamPort) :
    (s.modPort p f).wdb = s.wdb := rfl

@[simp] theorem modPort_arbiter (s : State) (p : Fin 4) (f : StreamPort → StreamPort) :
    (s.modPort p f).arbiter = s.arbiter := rfl

@[simp] theorem modPort_renews (s : State) (p : Fin 4) (f : StreamPort → StreamPort) :
    (s.modPort p f).renews = s.renews := rfl

@[simp] theorem modPort_renewEn (s : State) (p : Fin 4) (f : StreamPort → StreamPort) :
    (s.modPort p f).renewEn = s.renewEn := rfl

@[simp] theorem modPort_slots (s : State) (p : Fin 4) (f : StreamPort → StreamPort) :
    (s.modPort p f).slots = s.slots := rfl

@[simp] theorem modPort_channels (s : State) (p : Fin 4) (f : StreamPort → StreamPort) :
    (s.modPort p f).channels = s.channels := rfl

@[simp] theorem modPort_ports (s : State) (p : Fin 4) (f : StreamPort → StreamPort) :
    (s.modPort p f).ports = s.ports.set p (f s.ports[p]) := rfl

@[simp] theorem modPort_protectEn (s : State) (p : Fin 4) (f : StreamPort → StreamPort) :
    (s.modPort p f).protectEn = s.protectEn := rfl

@[simp] theorem modPort_faults (s : State) (p : Fin 4) (f : StreamPort → StreamPort) :
    (s.modPort p f).faults = s.faults := rfl

@[simp] theorem modPort_scrub (s : State) (p : Fin 4) (f : StreamPort → StreamPort) :
    (s.modPort p f).scrub = s.scrub := rfl

@[simp] theorem modPort_port (s : State) (p : Fin 4) (f : StreamPort → StreamPort) :
    (s.modPort p f).port = s.port := rfl

@[simp] theorem modPort_minWin (s : State) (p : Fin 4) (f : StreamPort → StreamPort) :
    (s.modPort p f).minWin = s.minWin := rfl

@[simp] theorem modPort_cq (s : State) (p : Fin 4) (f : StreamPort → StreamPort) :
    (s.modPort p f).cq = s.cq := rfl

@[simp] theorem modPort_flags (s : State) (p : Fin 4) (f : StreamPort → StreamPort) :
    (s.modPort p f).flags = s.flags := rfl

@[simp] theorem modPort_mask (s : State) (p : Fin 4) (f : StreamPort → StreamPort) :
    (s.modPort p f).mask = s.mask := rfl

@[simp] theorem modPort_refusal (s : State) (p : Fin 4) (f : StreamPort → StreamPort) :
    (s.modPort p f).refusal = s.refusal := rfl

@[simp] theorem modPort_slotSelect (s : State) (p : Fin 4) (f : StreamPort → StreamPort) :
    (s.modPort p f).slotSelect = s.slotSelect := rfl

@[simp] theorem modPort_page (s : State) (p : Fin 4) (f : StreamPort → StreamPort) :
    (s.modPort p f).page = s.page := rfl

@[simp] theorem modPort_window (s : State) (p : Fin 4) (f : StreamPort → StreamPort) :
    (s.modPort p f).window = s.window := rfl

@[simp] theorem modPort_captures (s : State) (p : Fin 4) (f : StreamPort → StreamPort) :
    (s.modPort p f).captures = s.captures := rfl

@[simp] theorem modPort_transferReset (s : State) (p : Fin 4) (f : StreamPort → StreamPort) :
    (s.modPort p f).transferReset = s.transferReset := rfl

/-! ### `modScrub` -/

@[simp] theorem modScrub_pending (s : State) (f : Scrub → Scrub) :
    (s.modScrub f).pending = s.pending := rfl

@[simp] theorem modScrub_pinHeld (s : State) (f : Scrub → Scrub) :
    (s.modScrub f).pinHeld = s.pinHeld := rfl

@[simp] theorem modScrub_mclk (s : State) (f : Scrub → Scrub) :
    (s.modScrub f).mclk = s.mclk := rfl

@[simp] theorem modScrub_slotTaken (s : State) (f : Scrub → Scrub) :
    (s.modScrub f).slotTaken = s.slotTaken := rfl

@[simp] theorem modScrub_commandBus (s : State) (f : Scrub → Scrub) :
    (s.modScrub f).commandBus = s.commandBus := rfl

@[simp] theorem modScrub_hostData (s : State) (f : Scrub → Scrub) :
    (s.modScrub f).hostData = s.hostData := rfl

@[simp] theorem modScrub_freeCount (s : State) (f : Scrub → Scrub) :
    (s.modScrub f).freeCount = s.freeCount := rfl

@[simp] theorem modScrub_stack (s : State) (f : Scrub → Scrub) :
    (s.modScrub f).stack = s.stack := rfl

@[simp] theorem modScrub_layers (s : State) (f : Scrub → Scrub) :
    (s.modScrub f).layers = s.layers := rfl

@[simp] theorem modScrub_params (s : State) (f : Scrub → Scrub) :
    (s.modScrub f).params = s.params := rfl

@[simp] theorem modScrub_banks (s : State) (f : Scrub → Scrub) :
    (s.modScrub f).banks = s.banks := rfl

@[simp] theorem modScrub_clusters (s : State) (f : Scrub → Scrub) :
    (s.modScrub f).clusters = s.clusters := rfl

@[simp] theorem modScrub_layerRecords (s : State) (f : Scrub → Scrub) :
    (s.modScrub f).layerRecords = s.layerRecords := rfl

@[simp] theorem modScrub_dataBus (s : State) (f : Scrub → Scrub) :
    (s.modScrub f).dataBus = s.dataBus := rfl

@[simp] theorem modScrub_issued (s : State) (f : Scrub → Scrub) :
    (s.modScrub f).issued = s.issued := rfl

@[simp] theorem modScrub_rowPolicy (s : State) (f : Scrub → Scrub) :
    (s.modScrub f).rowPolicy = s.rowPolicy := rfl

@[simp] theorem modScrub_idleShut (s : State) (f : Scrub → Scrub) :
    (s.modScrub f).idleShut = s.idleShut := rfl

@[simp] theorem modScrub_paq (s : State) (f : Scrub → Scrub) :
    (s.modScrub f).paq = s.paq := rfl

@[simp] theorem modScrub_nextEntry (s : State) (f : Scrub → Scrub) :
    (s.modScrub f).nextEntry = s.nextEntry := rfl

@[simp] theorem modScrub_bypassCap (s : State) (f : Scrub → Scrub) :
    (s.modScrub f).bypassCap = s.bypassCap := rfl

@[simp] theorem modScrub_wdb (s : State) (f : Scrub → Scrub) :
    (s.modScrub f).wdb = s.wdb := rfl

@[simp] theorem modScrub_arbiter (s : State) (f : Scrub → Scrub) :
    (s.modScrub f).arbiter = s.arbiter := rfl

@[simp] theorem modScrub_renews (s : State) (f : Scrub → Scrub) :
    (s.modScrub f).renews = s.renews := rfl

@[simp] theorem modScrub_renewEn (s : State) (f : Scrub → Scrub) :
    (s.modScrub f).renewEn = s.renewEn := rfl

@[simp] theorem modScrub_slots (s : State) (f : Scrub → Scrub) :
    (s.modScrub f).slots = s.slots := rfl

@[simp] theorem modScrub_channels (s : State) (f : Scrub → Scrub) :
    (s.modScrub f).channels = s.channels := rfl

@[simp] theorem modScrub_ports (s : State) (f : Scrub → Scrub) :
    (s.modScrub f).ports = s.ports := rfl

@[simp] theorem modScrub_protectEn (s : State) (f : Scrub → Scrub) :
    (s.modScrub f).protectEn = s.protectEn := rfl

@[simp] theorem modScrub_faults (s : State) (f : Scrub → Scrub) :
    (s.modScrub f).faults = s.faults := rfl

@[simp] theorem modScrub_scrub (s : State) (f : Scrub → Scrub) :
    (s.modScrub f).scrub = f s.scrub := rfl

@[simp] theorem modScrub_port (s : State) (f : Scrub → Scrub) :
    (s.modScrub f).port = s.port := rfl

@[simp] theorem modScrub_minWin (s : State) (f : Scrub → Scrub) :
    (s.modScrub f).minWin = s.minWin := rfl

@[simp] theorem modScrub_cq (s : State) (f : Scrub → Scrub) :
    (s.modScrub f).cq = s.cq := rfl

@[simp] theorem modScrub_flags (s : State) (f : Scrub → Scrub) :
    (s.modScrub f).flags = s.flags := rfl

@[simp] theorem modScrub_mask (s : State) (f : Scrub → Scrub) :
    (s.modScrub f).mask = s.mask := rfl

@[simp] theorem modScrub_refusal (s : State) (f : Scrub → Scrub) :
    (s.modScrub f).refusal = s.refusal := rfl

@[simp] theorem modScrub_slotSelect (s : State) (f : Scrub → Scrub) :
    (s.modScrub f).slotSelect = s.slotSelect := rfl

@[simp] theorem modScrub_page (s : State) (f : Scrub → Scrub) :
    (s.modScrub f).page = s.page := rfl

@[simp] theorem modScrub_window (s : State) (f : Scrub → Scrub) :
    (s.modScrub f).window = s.window := rfl

@[simp] theorem modScrub_captures (s : State) (f : Scrub → Scrub) :
    (s.modScrub f).captures = s.captures := rfl

@[simp] theorem modScrub_transferReset (s : State) (f : Scrub → Scrub) :
    (s.modScrub f).transferReset = s.transferReset := rfl

/-! ### `modMemPort` -/

@[simp] theorem modMemPort_pending (s : State) (f : MemPort → MemPort) :
    (s.modMemPort f).pending = s.pending := rfl

@[simp] theorem modMemPort_pinHeld (s : State) (f : MemPort → MemPort) :
    (s.modMemPort f).pinHeld = s.pinHeld := rfl

@[simp] theorem modMemPort_mclk (s : State) (f : MemPort → MemPort) :
    (s.modMemPort f).mclk = s.mclk := rfl

@[simp] theorem modMemPort_slotTaken (s : State) (f : MemPort → MemPort) :
    (s.modMemPort f).slotTaken = s.slotTaken := rfl

@[simp] theorem modMemPort_commandBus (s : State) (f : MemPort → MemPort) :
    (s.modMemPort f).commandBus = s.commandBus := rfl

@[simp] theorem modMemPort_hostData (s : State) (f : MemPort → MemPort) :
    (s.modMemPort f).hostData = s.hostData := rfl

@[simp] theorem modMemPort_freeCount (s : State) (f : MemPort → MemPort) :
    (s.modMemPort f).freeCount = s.freeCount := rfl

@[simp] theorem modMemPort_stack (s : State) (f : MemPort → MemPort) :
    (s.modMemPort f).stack = s.stack := rfl

@[simp] theorem modMemPort_layers (s : State) (f : MemPort → MemPort) :
    (s.modMemPort f).layers = s.layers := rfl

@[simp] theorem modMemPort_params (s : State) (f : MemPort → MemPort) :
    (s.modMemPort f).params = s.params := rfl

@[simp] theorem modMemPort_banks (s : State) (f : MemPort → MemPort) :
    (s.modMemPort f).banks = s.banks := rfl

@[simp] theorem modMemPort_clusters (s : State) (f : MemPort → MemPort) :
    (s.modMemPort f).clusters = s.clusters := rfl

@[simp] theorem modMemPort_layerRecords (s : State) (f : MemPort → MemPort) :
    (s.modMemPort f).layerRecords = s.layerRecords := rfl

@[simp] theorem modMemPort_dataBus (s : State) (f : MemPort → MemPort) :
    (s.modMemPort f).dataBus = s.dataBus := rfl

@[simp] theorem modMemPort_issued (s : State) (f : MemPort → MemPort) :
    (s.modMemPort f).issued = s.issued := rfl

@[simp] theorem modMemPort_rowPolicy (s : State) (f : MemPort → MemPort) :
    (s.modMemPort f).rowPolicy = s.rowPolicy := rfl

@[simp] theorem modMemPort_idleShut (s : State) (f : MemPort → MemPort) :
    (s.modMemPort f).idleShut = s.idleShut := rfl

@[simp] theorem modMemPort_paq (s : State) (f : MemPort → MemPort) :
    (s.modMemPort f).paq = s.paq := rfl

@[simp] theorem modMemPort_nextEntry (s : State) (f : MemPort → MemPort) :
    (s.modMemPort f).nextEntry = s.nextEntry := rfl

@[simp] theorem modMemPort_bypassCap (s : State) (f : MemPort → MemPort) :
    (s.modMemPort f).bypassCap = s.bypassCap := rfl

@[simp] theorem modMemPort_wdb (s : State) (f : MemPort → MemPort) :
    (s.modMemPort f).wdb = s.wdb := rfl

@[simp] theorem modMemPort_arbiter (s : State) (f : MemPort → MemPort) :
    (s.modMemPort f).arbiter = s.arbiter := rfl

@[simp] theorem modMemPort_renews (s : State) (f : MemPort → MemPort) :
    (s.modMemPort f).renews = s.renews := rfl

@[simp] theorem modMemPort_renewEn (s : State) (f : MemPort → MemPort) :
    (s.modMemPort f).renewEn = s.renewEn := rfl

@[simp] theorem modMemPort_slots (s : State) (f : MemPort → MemPort) :
    (s.modMemPort f).slots = s.slots := rfl

@[simp] theorem modMemPort_channels (s : State) (f : MemPort → MemPort) :
    (s.modMemPort f).channels = s.channels := rfl

@[simp] theorem modMemPort_ports (s : State) (f : MemPort → MemPort) :
    (s.modMemPort f).ports = s.ports := rfl

@[simp] theorem modMemPort_protectEn (s : State) (f : MemPort → MemPort) :
    (s.modMemPort f).protectEn = s.protectEn := rfl

@[simp] theorem modMemPort_faults (s : State) (f : MemPort → MemPort) :
    (s.modMemPort f).faults = s.faults := rfl

@[simp] theorem modMemPort_scrub (s : State) (f : MemPort → MemPort) :
    (s.modMemPort f).scrub = s.scrub := rfl

@[simp] theorem modMemPort_port (s : State) (f : MemPort → MemPort) :
    (s.modMemPort f).port = f s.port := rfl

@[simp] theorem modMemPort_minWin (s : State) (f : MemPort → MemPort) :
    (s.modMemPort f).minWin = s.minWin := rfl

@[simp] theorem modMemPort_cq (s : State) (f : MemPort → MemPort) :
    (s.modMemPort f).cq = s.cq := rfl

@[simp] theorem modMemPort_flags (s : State) (f : MemPort → MemPort) :
    (s.modMemPort f).flags = s.flags := rfl

@[simp] theorem modMemPort_mask (s : State) (f : MemPort → MemPort) :
    (s.modMemPort f).mask = s.mask := rfl

@[simp] theorem modMemPort_refusal (s : State) (f : MemPort → MemPort) :
    (s.modMemPort f).refusal = s.refusal := rfl

@[simp] theorem modMemPort_slotSelect (s : State) (f : MemPort → MemPort) :
    (s.modMemPort f).slotSelect = s.slotSelect := rfl

@[simp] theorem modMemPort_page (s : State) (f : MemPort → MemPort) :
    (s.modMemPort f).page = s.page := rfl

@[simp] theorem modMemPort_window (s : State) (f : MemPort → MemPort) :
    (s.modMemPort f).window = s.window := rfl

@[simp] theorem modMemPort_captures (s : State) (f : MemPort → MemPort) :
    (s.modMemPort f).captures = s.captures := rfl

@[simp] theorem modMemPort_transferReset (s : State) (f : MemPort → MemPort) :
    (s.modMemPort f).transferReset = s.transferReset := rfl

/-! ### `modArbiter` -/

@[simp] theorem modArbiter_pending (s : State) (f : Arbiter → Arbiter) :
    (s.modArbiter f).pending = s.pending := rfl

@[simp] theorem modArbiter_pinHeld (s : State) (f : Arbiter → Arbiter) :
    (s.modArbiter f).pinHeld = s.pinHeld := rfl

@[simp] theorem modArbiter_mclk (s : State) (f : Arbiter → Arbiter) :
    (s.modArbiter f).mclk = s.mclk := rfl

@[simp] theorem modArbiter_slotTaken (s : State) (f : Arbiter → Arbiter) :
    (s.modArbiter f).slotTaken = s.slotTaken := rfl

@[simp] theorem modArbiter_commandBus (s : State) (f : Arbiter → Arbiter) :
    (s.modArbiter f).commandBus = s.commandBus := rfl

@[simp] theorem modArbiter_hostData (s : State) (f : Arbiter → Arbiter) :
    (s.modArbiter f).hostData = s.hostData := rfl

@[simp] theorem modArbiter_freeCount (s : State) (f : Arbiter → Arbiter) :
    (s.modArbiter f).freeCount = s.freeCount := rfl

@[simp] theorem modArbiter_stack (s : State) (f : Arbiter → Arbiter) :
    (s.modArbiter f).stack = s.stack := rfl

@[simp] theorem modArbiter_layers (s : State) (f : Arbiter → Arbiter) :
    (s.modArbiter f).layers = s.layers := rfl

@[simp] theorem modArbiter_params (s : State) (f : Arbiter → Arbiter) :
    (s.modArbiter f).params = s.params := rfl

@[simp] theorem modArbiter_banks (s : State) (f : Arbiter → Arbiter) :
    (s.modArbiter f).banks = s.banks := rfl

@[simp] theorem modArbiter_clusters (s : State) (f : Arbiter → Arbiter) :
    (s.modArbiter f).clusters = s.clusters := rfl

@[simp] theorem modArbiter_layerRecords (s : State) (f : Arbiter → Arbiter) :
    (s.modArbiter f).layerRecords = s.layerRecords := rfl

@[simp] theorem modArbiter_dataBus (s : State) (f : Arbiter → Arbiter) :
    (s.modArbiter f).dataBus = s.dataBus := rfl

@[simp] theorem modArbiter_issued (s : State) (f : Arbiter → Arbiter) :
    (s.modArbiter f).issued = s.issued := rfl

@[simp] theorem modArbiter_rowPolicy (s : State) (f : Arbiter → Arbiter) :
    (s.modArbiter f).rowPolicy = s.rowPolicy := rfl

@[simp] theorem modArbiter_idleShut (s : State) (f : Arbiter → Arbiter) :
    (s.modArbiter f).idleShut = s.idleShut := rfl

@[simp] theorem modArbiter_paq (s : State) (f : Arbiter → Arbiter) :
    (s.modArbiter f).paq = s.paq := rfl

@[simp] theorem modArbiter_nextEntry (s : State) (f : Arbiter → Arbiter) :
    (s.modArbiter f).nextEntry = s.nextEntry := rfl

@[simp] theorem modArbiter_bypassCap (s : State) (f : Arbiter → Arbiter) :
    (s.modArbiter f).bypassCap = s.bypassCap := rfl

@[simp] theorem modArbiter_wdb (s : State) (f : Arbiter → Arbiter) :
    (s.modArbiter f).wdb = s.wdb := rfl

@[simp] theorem modArbiter_arbiter (s : State) (f : Arbiter → Arbiter) :
    (s.modArbiter f).arbiter = f s.arbiter := rfl

@[simp] theorem modArbiter_renews (s : State) (f : Arbiter → Arbiter) :
    (s.modArbiter f).renews = s.renews := rfl

@[simp] theorem modArbiter_renewEn (s : State) (f : Arbiter → Arbiter) :
    (s.modArbiter f).renewEn = s.renewEn := rfl

@[simp] theorem modArbiter_slots (s : State) (f : Arbiter → Arbiter) :
    (s.modArbiter f).slots = s.slots := rfl

@[simp] theorem modArbiter_channels (s : State) (f : Arbiter → Arbiter) :
    (s.modArbiter f).channels = s.channels := rfl

@[simp] theorem modArbiter_ports (s : State) (f : Arbiter → Arbiter) :
    (s.modArbiter f).ports = s.ports := rfl

@[simp] theorem modArbiter_protectEn (s : State) (f : Arbiter → Arbiter) :
    (s.modArbiter f).protectEn = s.protectEn := rfl

@[simp] theorem modArbiter_faults (s : State) (f : Arbiter → Arbiter) :
    (s.modArbiter f).faults = s.faults := rfl

@[simp] theorem modArbiter_scrub (s : State) (f : Arbiter → Arbiter) :
    (s.modArbiter f).scrub = s.scrub := rfl

@[simp] theorem modArbiter_port (s : State) (f : Arbiter → Arbiter) :
    (s.modArbiter f).port = s.port := rfl

@[simp] theorem modArbiter_minWin (s : State) (f : Arbiter → Arbiter) :
    (s.modArbiter f).minWin = s.minWin := rfl

@[simp] theorem modArbiter_cq (s : State) (f : Arbiter → Arbiter) :
    (s.modArbiter f).cq = s.cq := rfl

@[simp] theorem modArbiter_flags (s : State) (f : Arbiter → Arbiter) :
    (s.modArbiter f).flags = s.flags := rfl

@[simp] theorem modArbiter_mask (s : State) (f : Arbiter → Arbiter) :
    (s.modArbiter f).mask = s.mask := rfl

@[simp] theorem modArbiter_refusal (s : State) (f : Arbiter → Arbiter) :
    (s.modArbiter f).refusal = s.refusal := rfl

@[simp] theorem modArbiter_slotSelect (s : State) (f : Arbiter → Arbiter) :
    (s.modArbiter f).slotSelect = s.slotSelect := rfl

@[simp] theorem modArbiter_page (s : State) (f : Arbiter → Arbiter) :
    (s.modArbiter f).page = s.page := rfl

@[simp] theorem modArbiter_window (s : State) (f : Arbiter → Arbiter) :
    (s.modArbiter f).window = s.window := rfl

@[simp] theorem modArbiter_captures (s : State) (f : Arbiter → Arbiter) :
    (s.modArbiter f).captures = s.captures := rfl

@[simp] theorem modArbiter_transferReset (s : State) (f : Arbiter → Arbiter) :
    (s.modArbiter f).transferReset = s.transferReset := rfl

/-! ### `modWindow` -/

@[simp] theorem modWindow_pending (s : State) (f : Window → Window) :
    (s.modWindow f).pending = s.pending := rfl

@[simp] theorem modWindow_pinHeld (s : State) (f : Window → Window) :
    (s.modWindow f).pinHeld = s.pinHeld := rfl

@[simp] theorem modWindow_mclk (s : State) (f : Window → Window) :
    (s.modWindow f).mclk = s.mclk := rfl

@[simp] theorem modWindow_slotTaken (s : State) (f : Window → Window) :
    (s.modWindow f).slotTaken = s.slotTaken := rfl

@[simp] theorem modWindow_commandBus (s : State) (f : Window → Window) :
    (s.modWindow f).commandBus = s.commandBus := rfl

@[simp] theorem modWindow_hostData (s : State) (f : Window → Window) :
    (s.modWindow f).hostData = s.hostData := rfl

@[simp] theorem modWindow_freeCount (s : State) (f : Window → Window) :
    (s.modWindow f).freeCount = s.freeCount := rfl

@[simp] theorem modWindow_stack (s : State) (f : Window → Window) :
    (s.modWindow f).stack = s.stack := rfl

@[simp] theorem modWindow_layers (s : State) (f : Window → Window) :
    (s.modWindow f).layers = s.layers := rfl

@[simp] theorem modWindow_params (s : State) (f : Window → Window) :
    (s.modWindow f).params = s.params := rfl

@[simp] theorem modWindow_banks (s : State) (f : Window → Window) :
    (s.modWindow f).banks = s.banks := rfl

@[simp] theorem modWindow_clusters (s : State) (f : Window → Window) :
    (s.modWindow f).clusters = s.clusters := rfl

@[simp] theorem modWindow_layerRecords (s : State) (f : Window → Window) :
    (s.modWindow f).layerRecords = s.layerRecords := rfl

@[simp] theorem modWindow_dataBus (s : State) (f : Window → Window) :
    (s.modWindow f).dataBus = s.dataBus := rfl

@[simp] theorem modWindow_issued (s : State) (f : Window → Window) :
    (s.modWindow f).issued = s.issued := rfl

@[simp] theorem modWindow_rowPolicy (s : State) (f : Window → Window) :
    (s.modWindow f).rowPolicy = s.rowPolicy := rfl

@[simp] theorem modWindow_idleShut (s : State) (f : Window → Window) :
    (s.modWindow f).idleShut = s.idleShut := rfl

@[simp] theorem modWindow_paq (s : State) (f : Window → Window) :
    (s.modWindow f).paq = s.paq := rfl

@[simp] theorem modWindow_nextEntry (s : State) (f : Window → Window) :
    (s.modWindow f).nextEntry = s.nextEntry := rfl

@[simp] theorem modWindow_bypassCap (s : State) (f : Window → Window) :
    (s.modWindow f).bypassCap = s.bypassCap := rfl

@[simp] theorem modWindow_wdb (s : State) (f : Window → Window) :
    (s.modWindow f).wdb = s.wdb := rfl

@[simp] theorem modWindow_arbiter (s : State) (f : Window → Window) :
    (s.modWindow f).arbiter = s.arbiter := rfl

@[simp] theorem modWindow_renews (s : State) (f : Window → Window) :
    (s.modWindow f).renews = s.renews := rfl

@[simp] theorem modWindow_renewEn (s : State) (f : Window → Window) :
    (s.modWindow f).renewEn = s.renewEn := rfl

@[simp] theorem modWindow_slots (s : State) (f : Window → Window) :
    (s.modWindow f).slots = s.slots := rfl

@[simp] theorem modWindow_channels (s : State) (f : Window → Window) :
    (s.modWindow f).channels = s.channels := rfl

@[simp] theorem modWindow_ports (s : State) (f : Window → Window) :
    (s.modWindow f).ports = s.ports := rfl

@[simp] theorem modWindow_protectEn (s : State) (f : Window → Window) :
    (s.modWindow f).protectEn = s.protectEn := rfl

@[simp] theorem modWindow_faults (s : State) (f : Window → Window) :
    (s.modWindow f).faults = s.faults := rfl

@[simp] theorem modWindow_scrub (s : State) (f : Window → Window) :
    (s.modWindow f).scrub = s.scrub := rfl

@[simp] theorem modWindow_port (s : State) (f : Window → Window) :
    (s.modWindow f).port = s.port := rfl

@[simp] theorem modWindow_minWin (s : State) (f : Window → Window) :
    (s.modWindow f).minWin = s.minWin := rfl

@[simp] theorem modWindow_cq (s : State) (f : Window → Window) :
    (s.modWindow f).cq = s.cq := rfl

@[simp] theorem modWindow_flags (s : State) (f : Window → Window) :
    (s.modWindow f).flags = s.flags := rfl

@[simp] theorem modWindow_mask (s : State) (f : Window → Window) :
    (s.modWindow f).mask = s.mask := rfl

@[simp] theorem modWindow_refusal (s : State) (f : Window → Window) :
    (s.modWindow f).refusal = s.refusal := rfl

@[simp] theorem modWindow_slotSelect (s : State) (f : Window → Window) :
    (s.modWindow f).slotSelect = s.slotSelect := rfl

@[simp] theorem modWindow_page (s : State) (f : Window → Window) :
    (s.modWindow f).page = s.page := rfl

@[simp] theorem modWindow_window (s : State) (f : Window → Window) :
    (s.modWindow f).window = f s.window := rfl

@[simp] theorem modWindow_captures (s : State) (f : Window → Window) :
    (s.modWindow f).captures = s.captures := rfl

@[simp] theorem modWindow_transferReset (s : State) (f : Window → Window) :
    (s.modWindow f).transferReset = s.transferReset := rfl

/-! ### `modCq` -/

@[simp] theorem modCq_pending (s : State) (f : CompletionUnit → CompletionUnit) :
    (s.modCq f).pending = s.pending := rfl

@[simp] theorem modCq_pinHeld (s : State) (f : CompletionUnit → CompletionUnit) :
    (s.modCq f).pinHeld = s.pinHeld := rfl

@[simp] theorem modCq_mclk (s : State) (f : CompletionUnit → CompletionUnit) :
    (s.modCq f).mclk = s.mclk := rfl

@[simp] theorem modCq_slotTaken (s : State) (f : CompletionUnit → CompletionUnit) :
    (s.modCq f).slotTaken = s.slotTaken := rfl

@[simp] theorem modCq_commandBus (s : State) (f : CompletionUnit → CompletionUnit) :
    (s.modCq f).commandBus = s.commandBus := rfl

@[simp] theorem modCq_hostData (s : State) (f : CompletionUnit → CompletionUnit) :
    (s.modCq f).hostData = s.hostData := rfl

@[simp] theorem modCq_freeCount (s : State) (f : CompletionUnit → CompletionUnit) :
    (s.modCq f).freeCount = s.freeCount := rfl

@[simp] theorem modCq_stack (s : State) (f : CompletionUnit → CompletionUnit) :
    (s.modCq f).stack = s.stack := rfl

@[simp] theorem modCq_layers (s : State) (f : CompletionUnit → CompletionUnit) :
    (s.modCq f).layers = s.layers := rfl

@[simp] theorem modCq_params (s : State) (f : CompletionUnit → CompletionUnit) :
    (s.modCq f).params = s.params := rfl

@[simp] theorem modCq_banks (s : State) (f : CompletionUnit → CompletionUnit) :
    (s.modCq f).banks = s.banks := rfl

@[simp] theorem modCq_clusters (s : State) (f : CompletionUnit → CompletionUnit) :
    (s.modCq f).clusters = s.clusters := rfl

@[simp] theorem modCq_layerRecords (s : State) (f : CompletionUnit → CompletionUnit) :
    (s.modCq f).layerRecords = s.layerRecords := rfl

@[simp] theorem modCq_dataBus (s : State) (f : CompletionUnit → CompletionUnit) :
    (s.modCq f).dataBus = s.dataBus := rfl

@[simp] theorem modCq_issued (s : State) (f : CompletionUnit → CompletionUnit) :
    (s.modCq f).issued = s.issued := rfl

@[simp] theorem modCq_rowPolicy (s : State) (f : CompletionUnit → CompletionUnit) :
    (s.modCq f).rowPolicy = s.rowPolicy := rfl

@[simp] theorem modCq_idleShut (s : State) (f : CompletionUnit → CompletionUnit) :
    (s.modCq f).idleShut = s.idleShut := rfl

@[simp] theorem modCq_paq (s : State) (f : CompletionUnit → CompletionUnit) :
    (s.modCq f).paq = s.paq := rfl

@[simp] theorem modCq_nextEntry (s : State) (f : CompletionUnit → CompletionUnit) :
    (s.modCq f).nextEntry = s.nextEntry := rfl

@[simp] theorem modCq_bypassCap (s : State) (f : CompletionUnit → CompletionUnit) :
    (s.modCq f).bypassCap = s.bypassCap := rfl

@[simp] theorem modCq_wdb (s : State) (f : CompletionUnit → CompletionUnit) :
    (s.modCq f).wdb = s.wdb := rfl

@[simp] theorem modCq_arbiter (s : State) (f : CompletionUnit → CompletionUnit) :
    (s.modCq f).arbiter = s.arbiter := rfl

@[simp] theorem modCq_renews (s : State) (f : CompletionUnit → CompletionUnit) :
    (s.modCq f).renews = s.renews := rfl

@[simp] theorem modCq_renewEn (s : State) (f : CompletionUnit → CompletionUnit) :
    (s.modCq f).renewEn = s.renewEn := rfl

@[simp] theorem modCq_slots (s : State) (f : CompletionUnit → CompletionUnit) :
    (s.modCq f).slots = s.slots := rfl

@[simp] theorem modCq_channels (s : State) (f : CompletionUnit → CompletionUnit) :
    (s.modCq f).channels = s.channels := rfl

@[simp] theorem modCq_ports (s : State) (f : CompletionUnit → CompletionUnit) :
    (s.modCq f).ports = s.ports := rfl

@[simp] theorem modCq_protectEn (s : State) (f : CompletionUnit → CompletionUnit) :
    (s.modCq f).protectEn = s.protectEn := rfl

@[simp] theorem modCq_faults (s : State) (f : CompletionUnit → CompletionUnit) :
    (s.modCq f).faults = s.faults := rfl

@[simp] theorem modCq_scrub (s : State) (f : CompletionUnit → CompletionUnit) :
    (s.modCq f).scrub = s.scrub := rfl

@[simp] theorem modCq_port (s : State) (f : CompletionUnit → CompletionUnit) :
    (s.modCq f).port = s.port := rfl

@[simp] theorem modCq_minWin (s : State) (f : CompletionUnit → CompletionUnit) :
    (s.modCq f).minWin = s.minWin := rfl

@[simp] theorem modCq_cq (s : State) (f : CompletionUnit → CompletionUnit) :
    (s.modCq f).cq = f s.cq := rfl

@[simp] theorem modCq_flags (s : State) (f : CompletionUnit → CompletionUnit) :
    (s.modCq f).flags = s.flags := rfl

@[simp] theorem modCq_mask (s : State) (f : CompletionUnit → CompletionUnit) :
    (s.modCq f).mask = s.mask := rfl

@[simp] theorem modCq_refusal (s : State) (f : CompletionUnit → CompletionUnit) :
    (s.modCq f).refusal = s.refusal := rfl

@[simp] theorem modCq_slotSelect (s : State) (f : CompletionUnit → CompletionUnit) :
    (s.modCq f).slotSelect = s.slotSelect := rfl

@[simp] theorem modCq_page (s : State) (f : CompletionUnit → CompletionUnit) :
    (s.modCq f).page = s.page := rfl

@[simp] theorem modCq_window (s : State) (f : CompletionUnit → CompletionUnit) :
    (s.modCq f).window = s.window := rfl

@[simp] theorem modCq_captures (s : State) (f : CompletionUnit → CompletionUnit) :
    (s.modCq f).captures = s.captures := rfl

@[simp] theorem modCq_transferReset (s : State) (f : CompletionUnit → CompletionUnit) :
    (s.modCq f).transferReset = s.transferReset := rfl

/-! ### `modStack` -/

@[simp] theorem modStack_pending (s : State) (f : Stack → Stack) :
    (s.modStack f).pending = s.pending := rfl

@[simp] theorem modStack_pinHeld (s : State) (f : Stack → Stack) :
    (s.modStack f).pinHeld = s.pinHeld := rfl

@[simp] theorem modStack_mclk (s : State) (f : Stack → Stack) :
    (s.modStack f).mclk = s.mclk := rfl

@[simp] theorem modStack_slotTaken (s : State) (f : Stack → Stack) :
    (s.modStack f).slotTaken = s.slotTaken := rfl

@[simp] theorem modStack_commandBus (s : State) (f : Stack → Stack) :
    (s.modStack f).commandBus = s.commandBus := rfl

@[simp] theorem modStack_hostData (s : State) (f : Stack → Stack) :
    (s.modStack f).hostData = s.hostData := rfl

@[simp] theorem modStack_freeCount (s : State) (f : Stack → Stack) :
    (s.modStack f).freeCount = s.freeCount := rfl

@[simp] theorem modStack_stack (s : State) (f : Stack → Stack) :
    (s.modStack f).stack = f s.stack := rfl

@[simp] theorem modStack_layers (s : State) (f : Stack → Stack) :
    (s.modStack f).layers = s.layers := rfl

@[simp] theorem modStack_params (s : State) (f : Stack → Stack) :
    (s.modStack f).params = s.params := rfl

@[simp] theorem modStack_banks (s : State) (f : Stack → Stack) :
    (s.modStack f).banks = s.banks := rfl

@[simp] theorem modStack_clusters (s : State) (f : Stack → Stack) :
    (s.modStack f).clusters = s.clusters := rfl

@[simp] theorem modStack_layerRecords (s : State) (f : Stack → Stack) :
    (s.modStack f).layerRecords = s.layerRecords := rfl

@[simp] theorem modStack_dataBus (s : State) (f : Stack → Stack) :
    (s.modStack f).dataBus = s.dataBus := rfl

@[simp] theorem modStack_issued (s : State) (f : Stack → Stack) :
    (s.modStack f).issued = s.issued := rfl

@[simp] theorem modStack_rowPolicy (s : State) (f : Stack → Stack) :
    (s.modStack f).rowPolicy = s.rowPolicy := rfl

@[simp] theorem modStack_idleShut (s : State) (f : Stack → Stack) :
    (s.modStack f).idleShut = s.idleShut := rfl

@[simp] theorem modStack_paq (s : State) (f : Stack → Stack) :
    (s.modStack f).paq = s.paq := rfl

@[simp] theorem modStack_nextEntry (s : State) (f : Stack → Stack) :
    (s.modStack f).nextEntry = s.nextEntry := rfl

@[simp] theorem modStack_bypassCap (s : State) (f : Stack → Stack) :
    (s.modStack f).bypassCap = s.bypassCap := rfl

@[simp] theorem modStack_wdb (s : State) (f : Stack → Stack) :
    (s.modStack f).wdb = s.wdb := rfl

@[simp] theorem modStack_arbiter (s : State) (f : Stack → Stack) :
    (s.modStack f).arbiter = s.arbiter := rfl

@[simp] theorem modStack_renews (s : State) (f : Stack → Stack) :
    (s.modStack f).renews = s.renews := rfl

@[simp] theorem modStack_renewEn (s : State) (f : Stack → Stack) :
    (s.modStack f).renewEn = s.renewEn := rfl

@[simp] theorem modStack_slots (s : State) (f : Stack → Stack) :
    (s.modStack f).slots = s.slots := rfl

@[simp] theorem modStack_channels (s : State) (f : Stack → Stack) :
    (s.modStack f).channels = s.channels := rfl

@[simp] theorem modStack_ports (s : State) (f : Stack → Stack) :
    (s.modStack f).ports = s.ports := rfl

@[simp] theorem modStack_protectEn (s : State) (f : Stack → Stack) :
    (s.modStack f).protectEn = s.protectEn := rfl

@[simp] theorem modStack_faults (s : State) (f : Stack → Stack) :
    (s.modStack f).faults = s.faults := rfl

@[simp] theorem modStack_scrub (s : State) (f : Stack → Stack) :
    (s.modStack f).scrub = s.scrub := rfl

@[simp] theorem modStack_port (s : State) (f : Stack → Stack) :
    (s.modStack f).port = s.port := rfl

@[simp] theorem modStack_minWin (s : State) (f : Stack → Stack) :
    (s.modStack f).minWin = s.minWin := rfl

@[simp] theorem modStack_cq (s : State) (f : Stack → Stack) :
    (s.modStack f).cq = s.cq := rfl

@[simp] theorem modStack_flags (s : State) (f : Stack → Stack) :
    (s.modStack f).flags = s.flags := rfl

@[simp] theorem modStack_mask (s : State) (f : Stack → Stack) :
    (s.modStack f).mask = s.mask := rfl

@[simp] theorem modStack_refusal (s : State) (f : Stack → Stack) :
    (s.modStack f).refusal = s.refusal := rfl

@[simp] theorem modStack_slotSelect (s : State) (f : Stack → Stack) :
    (s.modStack f).slotSelect = s.slotSelect := rfl

@[simp] theorem modStack_page (s : State) (f : Stack → Stack) :
    (s.modStack f).page = s.page := rfl

@[simp] theorem modStack_window (s : State) (f : Stack → Stack) :
    (s.modStack f).window = s.window := rfl

@[simp] theorem modStack_captures (s : State) (f : Stack → Stack) :
    (s.modStack f).captures = s.captures := rfl

@[simp] theorem modStack_transferReset (s : State) (f : Stack → Stack) :
    (s.modStack f).transferReset = s.transferReset := rfl

/-! ### `raise` -/

@[simp] theorem raise_pending (s : State) (f : Flag) :
    (s.raise f).pending = s.pending := rfl

@[simp] theorem raise_pinHeld (s : State) (f : Flag) :
    (s.raise f).pinHeld = s.pinHeld := rfl

@[simp] theorem raise_mclk (s : State) (f : Flag) :
    (s.raise f).mclk = s.mclk := rfl

@[simp] theorem raise_slotTaken (s : State) (f : Flag) :
    (s.raise f).slotTaken = s.slotTaken := rfl

@[simp] theorem raise_commandBus (s : State) (f : Flag) :
    (s.raise f).commandBus = s.commandBus := rfl

@[simp] theorem raise_hostData (s : State) (f : Flag) :
    (s.raise f).hostData = s.hostData := rfl

@[simp] theorem raise_freeCount (s : State) (f : Flag) :
    (s.raise f).freeCount = s.freeCount := rfl

@[simp] theorem raise_stack (s : State) (f : Flag) :
    (s.raise f).stack = s.stack := rfl

@[simp] theorem raise_layers (s : State) (f : Flag) :
    (s.raise f).layers = s.layers := rfl

@[simp] theorem raise_params (s : State) (f : Flag) :
    (s.raise f).params = s.params := rfl

@[simp] theorem raise_banks (s : State) (f : Flag) :
    (s.raise f).banks = s.banks := rfl

@[simp] theorem raise_clusters (s : State) (f : Flag) :
    (s.raise f).clusters = s.clusters := rfl

@[simp] theorem raise_layerRecords (s : State) (f : Flag) :
    (s.raise f).layerRecords = s.layerRecords := rfl

@[simp] theorem raise_dataBus (s : State) (f : Flag) :
    (s.raise f).dataBus = s.dataBus := rfl

@[simp] theorem raise_issued (s : State) (f : Flag) :
    (s.raise f).issued = s.issued := rfl

@[simp] theorem raise_rowPolicy (s : State) (f : Flag) :
    (s.raise f).rowPolicy = s.rowPolicy := rfl

@[simp] theorem raise_idleShut (s : State) (f : Flag) :
    (s.raise f).idleShut = s.idleShut := rfl

@[simp] theorem raise_paq (s : State) (f : Flag) :
    (s.raise f).paq = s.paq := rfl

@[simp] theorem raise_nextEntry (s : State) (f : Flag) :
    (s.raise f).nextEntry = s.nextEntry := rfl

@[simp] theorem raise_bypassCap (s : State) (f : Flag) :
    (s.raise f).bypassCap = s.bypassCap := rfl

@[simp] theorem raise_wdb (s : State) (f : Flag) :
    (s.raise f).wdb = s.wdb := rfl

@[simp] theorem raise_arbiter (s : State) (f : Flag) :
    (s.raise f).arbiter = s.arbiter := rfl

@[simp] theorem raise_renews (s : State) (f : Flag) :
    (s.raise f).renews = s.renews := rfl

@[simp] theorem raise_renewEn (s : State) (f : Flag) :
    (s.raise f).renewEn = s.renewEn := rfl

@[simp] theorem raise_slots (s : State) (f : Flag) :
    (s.raise f).slots = s.slots := rfl

@[simp] theorem raise_channels (s : State) (f : Flag) :
    (s.raise f).channels = s.channels := rfl

@[simp] theorem raise_ports (s : State) (f : Flag) :
    (s.raise f).ports = s.ports := rfl

@[simp] theorem raise_protectEn (s : State) (f : Flag) :
    (s.raise f).protectEn = s.protectEn := rfl

@[simp] theorem raise_faults (s : State) (f : Flag) :
    (s.raise f).faults = s.faults := rfl

@[simp] theorem raise_scrub (s : State) (f : Flag) :
    (s.raise f).scrub = s.scrub := rfl

@[simp] theorem raise_port (s : State) (f : Flag) :
    (s.raise f).port = s.port := rfl

@[simp] theorem raise_minWin (s : State) (f : Flag) :
    (s.raise f).minWin = s.minWin := rfl

@[simp] theorem raise_cq (s : State) (f : Flag) :
    (s.raise f).cq = s.cq := rfl

@[simp] theorem raise_flags (s : State) (f : Flag) :
    (s.raise f).flags = s.flags ||| oneBit 26 f.position := rfl

@[simp] theorem raise_mask (s : State) (f : Flag) :
    (s.raise f).mask = s.mask := rfl

@[simp] theorem raise_refusal (s : State) (f : Flag) :
    (s.raise f).refusal = s.refusal := rfl

@[simp] theorem raise_slotSelect (s : State) (f : Flag) :
    (s.raise f).slotSelect = s.slotSelect := rfl

@[simp] theorem raise_page (s : State) (f : Flag) :
    (s.raise f).page = s.page := rfl

@[simp] theorem raise_window (s : State) (f : Flag) :
    (s.raise f).window = s.window := rfl

@[simp] theorem raise_captures (s : State) (f : Flag) :
    (s.raise f).captures = s.captures := rfl

@[simp] theorem raise_transferReset (s : State) (f : Flag) :
    (s.raise f).transferReset = s.transferReset := rfl

/-! ### `refuse` (R178) -/

@[simp] theorem refuse_pending (s : State) (code : RefusalCode) (index : BitVec 8) :
    (s.refuse code index).pending = s.pending := rfl

@[simp] theorem refuse_pinHeld (s : State) (code : RefusalCode) (index : BitVec 8) :
    (s.refuse code index).pinHeld = s.pinHeld := rfl

@[simp] theorem refuse_mclk (s : State) (code : RefusalCode) (index : BitVec 8) :
    (s.refuse code index).mclk = s.mclk := rfl

@[simp] theorem refuse_slotTaken (s : State) (code : RefusalCode) (index : BitVec 8) :
    (s.refuse code index).slotTaken = s.slotTaken := rfl

@[simp] theorem refuse_commandBus (s : State) (code : RefusalCode) (index : BitVec 8) :
    (s.refuse code index).commandBus = s.commandBus := rfl

@[simp] theorem refuse_hostData (s : State) (code : RefusalCode) (index : BitVec 8) :
    (s.refuse code index).hostData = s.hostData := rfl

@[simp] theorem refuse_freeCount (s : State) (code : RefusalCode) (index : BitVec 8) :
    (s.refuse code index).freeCount = s.freeCount := rfl

@[simp] theorem refuse_stack (s : State) (code : RefusalCode) (index : BitVec 8) :
    (s.refuse code index).stack = s.stack := rfl

@[simp] theorem refuse_layers (s : State) (code : RefusalCode) (index : BitVec 8) :
    (s.refuse code index).layers = s.layers := rfl

@[simp] theorem refuse_params (s : State) (code : RefusalCode) (index : BitVec 8) :
    (s.refuse code index).params = s.params := rfl

@[simp] theorem refuse_banks (s : State) (code : RefusalCode) (index : BitVec 8) :
    (s.refuse code index).banks = s.banks := rfl

@[simp] theorem refuse_clusters (s : State) (code : RefusalCode) (index : BitVec 8) :
    (s.refuse code index).clusters = s.clusters := rfl

@[simp] theorem refuse_layerRecords (s : State) (code : RefusalCode) (index : BitVec 8) :
    (s.refuse code index).layerRecords = s.layerRecords := rfl

@[simp] theorem refuse_dataBus (s : State) (code : RefusalCode) (index : BitVec 8) :
    (s.refuse code index).dataBus = s.dataBus := rfl

@[simp] theorem refuse_issued (s : State) (code : RefusalCode) (index : BitVec 8) :
    (s.refuse code index).issued = s.issued := rfl

@[simp] theorem refuse_rowPolicy (s : State) (code : RefusalCode) (index : BitVec 8) :
    (s.refuse code index).rowPolicy = s.rowPolicy := rfl

@[simp] theorem refuse_idleShut (s : State) (code : RefusalCode) (index : BitVec 8) :
    (s.refuse code index).idleShut = s.idleShut := rfl

@[simp] theorem refuse_paq (s : State) (code : RefusalCode) (index : BitVec 8) :
    (s.refuse code index).paq = s.paq := rfl

@[simp] theorem refuse_nextEntry (s : State) (code : RefusalCode) (index : BitVec 8) :
    (s.refuse code index).nextEntry = s.nextEntry := rfl

@[simp] theorem refuse_bypassCap (s : State) (code : RefusalCode) (index : BitVec 8) :
    (s.refuse code index).bypassCap = s.bypassCap := rfl

@[simp] theorem refuse_wdb (s : State) (code : RefusalCode) (index : BitVec 8) :
    (s.refuse code index).wdb = s.wdb := rfl

@[simp] theorem refuse_arbiter (s : State) (code : RefusalCode) (index : BitVec 8) :
    (s.refuse code index).arbiter = s.arbiter := rfl

@[simp] theorem refuse_renews (s : State) (code : RefusalCode) (index : BitVec 8) :
    (s.refuse code index).renews = s.renews := rfl

@[simp] theorem refuse_renewEn (s : State) (code : RefusalCode) (index : BitVec 8) :
    (s.refuse code index).renewEn = s.renewEn := rfl

@[simp] theorem refuse_slots (s : State) (code : RefusalCode) (index : BitVec 8) :
    (s.refuse code index).slots = s.slots := rfl

@[simp] theorem refuse_channels (s : State) (code : RefusalCode) (index : BitVec 8) :
    (s.refuse code index).channels = s.channels := rfl

@[simp] theorem refuse_ports (s : State) (code : RefusalCode) (index : BitVec 8) :
    (s.refuse code index).ports = s.ports := rfl

@[simp] theorem refuse_protectEn (s : State) (code : RefusalCode) (index : BitVec 8) :
    (s.refuse code index).protectEn = s.protectEn := rfl

@[simp] theorem refuse_faults (s : State) (code : RefusalCode) (index : BitVec 8) :
    (s.refuse code index).faults = s.faults := rfl

@[simp] theorem refuse_scrub (s : State) (code : RefusalCode) (index : BitVec 8) :
    (s.refuse code index).scrub = s.scrub := rfl

@[simp] theorem refuse_port (s : State) (code : RefusalCode) (index : BitVec 8) :
    (s.refuse code index).port = s.port := rfl

@[simp] theorem refuse_minWin (s : State) (code : RefusalCode) (index : BitVec 8) :
    (s.refuse code index).minWin = s.minWin := rfl

@[simp] theorem refuse_cq (s : State) (code : RefusalCode) (index : BitVec 8) :
    (s.refuse code index).cq = s.cq := rfl

@[simp] theorem refuse_flags (s : State) (code : RefusalCode) (index : BitVec 8) :
    (s.refuse code index).flags = s.flags ||| oneBit 26 (Flag.position .hostRefused) := rfl

@[simp] theorem refuse_mask (s : State) (code : RefusalCode) (index : BitVec 8) :
    (s.refuse code index).mask = s.mask := rfl

@[simp] theorem refuse_refusal (s : State) (code : RefusalCode) (index : BitVec 8) :
    (s.refuse code index).refusal = { code := code, index := index } := rfl

@[simp] theorem refuse_slotSelect (s : State) (code : RefusalCode) (index : BitVec 8) :
    (s.refuse code index).slotSelect = s.slotSelect := rfl

@[simp] theorem refuse_page (s : State) (code : RefusalCode) (index : BitVec 8) :
    (s.refuse code index).page = s.page := rfl

@[simp] theorem refuse_window (s : State) (code : RefusalCode) (index : BitVec 8) :
    (s.refuse code index).window = s.window := rfl

@[simp] theorem refuse_captures (s : State) (code : RefusalCode) (index : BitVec 8) :
    (s.refuse code index).captures = s.captures := rfl

@[simp] theorem refuse_transferReset (s : State) (code : RefusalCode) (index : BitVec 8) :
    (s.refuse code index).transferReset = s.transferReset := rfl

/-! ### `loseContents` -/

@[simp] theorem loseContents_pending (s : State) :
    s.loseContents.pending = s.pending := rfl

@[simp] theorem loseContents_pinHeld (s : State) :
    s.loseContents.pinHeld = s.pinHeld := rfl

@[simp] theorem loseContents_mclk (s : State) :
    s.loseContents.mclk = s.mclk := rfl

@[simp] theorem loseContents_slotTaken (s : State) :
    s.loseContents.slotTaken = s.slotTaken := rfl

@[simp] theorem loseContents_commandBus (s : State) :
    s.loseContents.commandBus = s.commandBus := rfl

@[simp] theorem loseContents_hostData (s : State) :
    s.loseContents.hostData = s.hostData := rfl

@[simp] theorem loseContents_freeCount (s : State) :
    s.loseContents.freeCount = s.freeCount := rfl

@[simp] theorem loseContents_stack (s : State) :
    s.loseContents.stack = { s.stack with contents := [], epoch := s.stack.epoch + 1 } := rfl

@[simp] theorem loseContents_layers (s : State) :
    s.loseContents.layers = s.layers := rfl

@[simp] theorem loseContents_params (s : State) :
    s.loseContents.params = s.params := rfl

@[simp] theorem loseContents_banks (s : State) :
    s.loseContents.banks = s.banks := rfl

@[simp] theorem loseContents_clusters (s : State) :
    s.loseContents.clusters = s.clusters := rfl

@[simp] theorem loseContents_layerRecords (s : State) :
    s.loseContents.layerRecords = s.layerRecords := rfl

@[simp] theorem loseContents_dataBus (s : State) :
    s.loseContents.dataBus = s.dataBus := rfl

@[simp] theorem loseContents_issued (s : State) :
    s.loseContents.issued = s.issued := rfl

@[simp] theorem loseContents_rowPolicy (s : State) :
    s.loseContents.rowPolicy = s.rowPolicy := rfl

@[simp] theorem loseContents_idleShut (s : State) :
    s.loseContents.idleShut = s.idleShut := rfl

@[simp] theorem loseContents_paq (s : State) :
    s.loseContents.paq = s.paq := rfl

@[simp] theorem loseContents_nextEntry (s : State) :
    s.loseContents.nextEntry = s.nextEntry := rfl

@[simp] theorem loseContents_bypassCap (s : State) :
    s.loseContents.bypassCap = s.bypassCap := rfl

@[simp] theorem loseContents_wdb (s : State) :
    s.loseContents.wdb = s.wdb := rfl

@[simp] theorem loseContents_arbiter (s : State) :
    s.loseContents.arbiter = s.arbiter := rfl

@[simp] theorem loseContents_renews (s : State) :
    s.loseContents.renews = s.renews := rfl

@[simp] theorem loseContents_renewEn (s : State) :
    s.loseContents.renewEn = s.renewEn := rfl

@[simp] theorem loseContents_slots (s : State) :
    s.loseContents.slots = s.slots := rfl

@[simp] theorem loseContents_channels (s : State) :
    s.loseContents.channels = s.channels := rfl

@[simp] theorem loseContents_ports (s : State) :
    s.loseContents.ports = s.ports := rfl

@[simp] theorem loseContents_protectEn (s : State) :
    s.loseContents.protectEn = s.protectEn := rfl

@[simp] theorem loseContents_faults (s : State) :
    s.loseContents.faults = s.faults := rfl

@[simp] theorem loseContents_scrub (s : State) :
    s.loseContents.scrub = s.scrub := rfl

@[simp] theorem loseContents_port (s : State) :
    s.loseContents.port = s.port := rfl

@[simp] theorem loseContents_minWin (s : State) :
    s.loseContents.minWin = s.minWin := rfl

@[simp] theorem loseContents_cq (s : State) :
    s.loseContents.cq = s.cq := rfl

@[simp] theorem loseContents_flags (s : State) :
    s.loseContents.flags = s.flags := rfl

@[simp] theorem loseContents_mask (s : State) :
    s.loseContents.mask = s.mask := rfl

@[simp] theorem loseContents_refusal (s : State) :
    s.loseContents.refusal = s.refusal := rfl

@[simp] theorem loseContents_slotSelect (s : State) :
    s.loseContents.slotSelect = s.slotSelect := rfl

@[simp] theorem loseContents_page (s : State) :
    s.loseContents.page = s.page := rfl

@[simp] theorem loseContents_window (s : State) :
    s.loseContents.window = s.window := rfl

@[simp] theorem loseContents_captures (s : State) :
    s.loseContents.captures = s.captures := rfl

@[simp] theorem loseContents_transferReset (s : State) :
    s.loseContents.transferReset = s.transferReset := rfl

end Sys2Proof.Machine
end

