-- ==== Sys2Proof/Laws/Ops.lean ====
section
/-! SUPPORT. What the shared operations do: the reset pin's gate, the RESET_BUSY test, the stack's contents. -/

namespace Sys2Proof.Machine

theorem whenReleased_released (f : State → State) {s : State} (h : s.pinHeld = false) :
    whenReleased f s = .next (f s) := by
  simp [whenReleased, h]

theorem whenReleased_held (f : State → State) {s : State} (h : s.pinHeld = true) : whenReleased f s = .next s := by
  simp [whenReleased, h]

theorem whenReleased_next (f : State → State) (s : State) : ∃ t, whenReleased f s = .next t := ⟨_, rfl⟩

/-- A property that an operation keeps is kept by the command that is it. -/
theorem whenReleased_keeps {P : State → Prop} {f : State → State} {s t : State} (hf : P s → P (f s)) (hs : P s)
    (h : whenReleased f s = .next t) : P t := by
  cases h
  split
  · exact hs
  · exact hf hs

theorem unlessBusy_busy (index : BitVec 8) (f : State → State) {s : State} (h : s.transferReset = true) :
    s.unlessBusy index f = s.refuse .resetBusy index := by
  simp [State.unlessBusy, h]

theorem unlessBusy_free (index : BitVec 8) (f : State → State) {s : State} (h : s.transferReset = false) :
    s.unlessBusy index f = f s := by
  simp [State.unlessBusy, h]

/-- A property that refusals and an operation keep is kept under the RESET_BUSY test. -/
theorem unlessBusy_keeps {P : State → Prop} (index : BitVec 8) (f : State → State) {s : State}
    (hr : P (s.refuse .resetBusy index)) (hf : P (f s)) : P (s.unlessBusy index f) := by
  unfold State.unlessBusy
  split
  · exact hr
  · exact hf

/-! ### The stack's contents -/

theorem readContents_writeContents_self (m : List (Nat × StackWord)) (k : Nat) (v : StackWord) :
    readContents (writeContents m k v) k = some v := by
  induction m with
  | nil => simp [writeContents, readContents]
  | cons c m ih =>
    obtain ⟨a, w⟩ := c
    simp only [writeContents]
    split
    · simp [readContents]
    · split
      · simp [readContents]
      · rename_i h1 h2
        simp [readContents, Ne.symm h2, ih]

theorem readContents_writeContents_other (m : List (Nat × StackWord)) {j k : Nat} (v : StackWord) (h : j ≠ k) :
    readContents (writeContents m k v) j = readContents m j := by
  induction m with
  | nil => simp [writeContents, readContents, h.symm]
  | cons c m ih =>
    obtain ⟨a, w⟩ := c
    simp only [writeContents]
    split
    · simp [readContents, h.symm]
    · split
      · rename_i h1 h2
        subst h2
        simp [readContents, h.symm]
      · simp [readContents, ih]

theorem contentsWf_cons {a : Nat} {w : StackWord} {m : List (Nat × StackWord)} :
    contentsWf ((a, w) :: m) = true ↔ (∀ c ∈ m, a < c.1) ∧ contentsWf m = true := by
  simp [contentsWf]

theorem mem_writeContents {m : List (Nat × StackWord)} {k : Nat} {v : StackWord} {c : Nat × StackWord}
    (h : c ∈ writeContents m k v) : c.1 = k ∨ c ∈ m := by
  induction m with
  | nil => exact .inl (by simpa [writeContents] using congrArg Prod.fst (List.mem_singleton.1 h))
  | cons d m ih =>
    obtain ⟨a, w⟩ := d
    simp only [writeContents] at h
    split at h
    · rcases List.mem_cons.1 h with rfl | h
      · exact .inl rfl
      · exact .inr h
    · split at h
      · rcases List.mem_cons.1 h with rfl | h
        · exact .inl rfl
        · exact .inr (List.mem_cons_of_mem _ h)
      · rcases List.mem_cons.1 h with rfl | h
        · exact .inr List.mem_cons_self
        · exact (ih h).imp id (List.mem_cons_of_mem _)

/-- A write keeps the canonical form. -/
theorem contentsWf_writeContents {m : List (Nat × StackWord)} (k : Nat) (v : StackWord) (h : contentsWf m = true) :
    contentsWf (writeContents m k v) = true := by
  induction m with
  | nil => rfl
  | cons d m ih =>
    obtain ⟨a, w⟩ := d
    have hd := contentsWf_cons.1 h
    simp only [writeContents]
    split
    · rename_i hk
      refine contentsWf_cons.2 ⟨fun c hc => ?_, h⟩
      rcases List.mem_cons.1 hc with rfl | hc
      · exact hk
      · exact Nat.lt_trans hk (hd.1 c hc)
    · split
      · rename_i hk
        subst hk
        exact contentsWf_cons.2 hd
      · rename_i h1 h2
        refine contentsWf_cons.2 ⟨fun c hc => ?_, ih hd.2⟩
        rcases mem_writeContents hc with hc | hc
        · omega
        · exact hd.1 c hc

/-- The words of a WRITE keep the canonical form. -/
theorem contentsWf_storeWords (a : Nat) (words : List Word) (s : State) (h : contentsWf s.stack.contents = true) :
    contentsWf (storeWords a words s).stack.contents = true := by
  simp only [storeWords, modStack_stack]
  generalize ((joinWords words).map (protectedWord s)).zipIdx (wordAddress a) = ws
  generalize s.stack.contents = m at h
  induction ws generalizing m with
  | nil => exact h
  | cons w ws ih => exact ih _ (contentsWf_writeContents _ _ h)

theorem readContents_foldl_other (ws : List (StackWord × Nat)) (m : List (Nat × StackWord)) (j : Nat)
    (h : ∀ w ∈ ws, w.2 ≠ j) :
    readContents (ws.foldl (fun c w => writeContents c w.2 w.1) m) j = readContents m j := by
  induction ws generalizing m with
  | nil => rfl
  | cons w ws ih =>
    rw [List.foldl_cons, ih _ fun x hx => h x (List.mem_cons_of_mem _ hx),
      readContents_writeContents_other _ _ (h w List.mem_cons_self).symm]

/-- A WRITE changes no word outside those it names. -/
theorem stackWord_storeWords_other (a : Nat) (words : List Word) (s : State) (j : Nat)
    (h : j < wordAddress a ∨ wordAddress a + (joinWords words).length ≤ j) :
    (storeWords a words s).stackWord j = s.stackWord j := by
  have : readContents (storeWords a words s).stack.contents j = readContents s.stack.contents j := by
    refine readContents_foldl_other _ _ _ fun w hw => ?_
    have := List.mem_zipIdx hw
    simp only [List.length_map] at this
    omega
  simp only [State.stackWord, this]
  rfl

/-! ### The lowest index that satisfies a test -/

theorem firstFin_eq_some {n : Nat} {p : Fin n → Bool} {i : Fin n} (h : p i = true) (low : ∀ j, j < i → p j = false) :
    firstFin n p = some i := by
  refine List.find?_eq_some_iff_getElem.2 ⟨h, i.val, by simp, by simp, fun j hj => ?_⟩
  simp [low ⟨j, by omega⟩ hj]

theorem firstFin_eq_none {n : Nat} {p : Fin n → Bool} : firstFin n p = none ↔ ∀ i, p i = false := by
  simp [firstFin, List.find?_eq_none]

end Sys2Proof.Machine
end

