-- ==== Sys2Proof/Laws/Channels.lean ====
section
/-! SUPPORT. What the channels' operations can change: the slot store, the channels, the completion unit and the flags, and
nothing else. -/

namespace Sys2Proof.Machine

/-- `t` differs from `s` at most in the slots, the channels, the completion unit and the flags. -/
def RunPart (s t : State) : Prop :=
  ∃ slots channels cq flags, t = { s with slots := slots, channels := channels, cq := cq, flags := flags }

theorem RunPart.rfl {s : State} : RunPart s s := ⟨s.slots, s.channels, s.cq, s.flags, Eq.refl _⟩

theorem RunPart.trans {s t u : State} (h : RunPart s t) (k : RunPart t u) : RunPart s u := by
  obtain ⟨_, _, _, _, rfl⟩ := h
  obtain ⟨a, b, c, d, rfl⟩ := k
  exact ⟨a, b, c, d, Eq.refl _⟩

theorem RunPart.modSlot {s : State} (k : Fin 64) (f : Slot → Slot) : RunPart s (s.modSlot k f) :=
  ⟨_, s.channels, s.cq, s.flags, Eq.refl _⟩

theorem RunPart.modChannel {s : State} (c : Fin 5) (f : Channel → Channel) : RunPart s (s.modChannel c f) :=
  ⟨s.slots, _, s.cq, s.flags, Eq.refl _⟩

theorem RunPart.modCq {s : State} (f : CompletionUnit → CompletionUnit) : RunPart s (s.modCq f) :=
  ⟨s.slots, s.channels, _, s.flags, Eq.refl _⟩

theorem RunPart.raise {s : State} (f : Flag) : RunPart s (s.raise f) :=
  ⟨s.slots, s.channels, s.cq, _, Eq.refl _⟩

theorem offerNext_runPart (c : Fin 5) (s : State) : RunPart s (offerNext c s) := by
  unfold offerNext
  split
  · exact .modChannel c _
  · exact .rfl

theorem closeRun_runPart (c : Fin 5) (k : Fin 64) (s : State) : RunPart s (closeRun c k s) :=
  (RunPart.modSlot k _).trans (.modChannel c _)

theorem haltChannel_runPart (c : Fin 5) (s : State) : RunPart s (haltChannel c s) :=
  (RunPart.modChannel c _).trans (.raise _)

theorem refuseLink_runPart (c : Fin 5) (l : Fin 64) (s : State) : RunPart s (refuseLink c l s) :=
  (RunPart.modChannel c _).trans (.raise _)

theorem writeOutcome_runPart (c : Fin 5) (k : Fin 64) (r : Result) (next : State → State)
    (hn : ∀ u, RunPart u (next u)) (s : State) : RunPart s (writeOutcome c k r next s) := by
  have put : RunPart s (putOutcome c k r s) := .modSlot k _
  unfold writeOutcome
  split
  · split
    · exact put.trans ((RunPart.modCq _).trans (hn _))
    · exact put.trans (.modChannel c _)
  · exact put.trans (hn _)

theorem setUpRun_runPart (c : Fin 5) (k : Fin 64) (s : State) : RunPart s (setUpRun c k s) :=
  (RunPart.modSlot k _).trans (.modChannel c _)

theorem beginRun_runPart (c : Fin 5) (k : Fin 64) (s : State) : RunPart s (beginRun c k s) := by
  unfold beginRun
  split
  · exact (setUpRun_runPart c k s).trans
      (writeOutcome_runPart c k _ _ (fun u => (closeRun_runPart c k u).trans (haltChannel_runPart c _)) _)
  · exact (setUpRun_runPart c k s).trans (offerNext_runPart c _)

theorem takeNext_runPart (c : Fin 5) (s : State) : RunPart s (takeNext c s) := by
  unfold takeNext
  split
  · exact .modChannel c _
  · exact (RunPart.modChannel c _).trans (beginRun_runPart c _ _)

theorem followLink_runPart (c : Fin 5) (l : Option (Fin 64)) (s : State) : RunPart s (followLink c l s) := by
  unfold followLink
  split
  · exact takeNext_runPart c s
  · split
    · exact beginRun_runPart c _ s
    · exact (refuseLink_runPart c _ s).trans (takeNext_runPart c _)

theorem finishRun_runPart (c : Fin 5) (k : Fin 64) (s : State) : RunPart s (finishRun c k s) := by
  unfold finishRun
  split
  · exact (closeRun_runPart c k s).trans (takeNext_runPart c _)
  · split
    · exact (closeRun_runPart c k s).trans (haltChannel_runPart c _)
    · exact (closeRun_runPart c k s).trans (followLink_runPart c _ _)

theorem endRun_runPart (c : Fin 5) (r : Result) (s : State) : RunPart s (endRun c r s) := by
  unfold endRun
  split
  · exact .rfl
  · exact writeOutcome_runPart c _ r _ (finishRun_runPart c _) s

theorem settleChannel_runPart (c : Fin 5) (s : State) : RunPart s (settleChannel c s) := by
  unfold settleChannel
  split
  · exact endRun_runPart c _ s
  · exact offerNext_runPart c s

theorem cancelQueuedSlots_runPart (ks : List (Fin 64)) (s : State) : RunPart s (ks.foldl cancelQueuedSlot s) := by
  induction ks generalizing s with
  | nil => exact .rfl
  | cons k ks ih => exact (RunPart.modSlot k _).trans (ih _)

theorem emptyQueue_runPart (c : Fin 5) (s : State) : RunPart s (emptyQueue c s) :=
  (cancelQueuedSlots_runPart _ s).trans (.modChannel c _)

theorem cancelRun_runPart (c : Fin 5) (s : State) : RunPart s (cancelRun c s) :=
  (RunPart.modChannel c _).trans (settleChannel_runPart c _)

/-- `t` differs from `s` at most in what a host command to the channels can change: the run's part and the refusal record. -/
def HostPart (s t : State) : Prop :=
  ∃ slots channels cq flags refusal,
    t = { s with slots := slots, channels := channels, cq := cq, flags := flags, refusal := refusal }

theorem RunPart.hostPart {s t : State} (h : RunPart s t) : HostPart s t := by
  obtain ⟨a, b, c, d, rfl⟩ := h
  exact ⟨a, b, c, d, s.refusal, Eq.refl _⟩

theorem HostPart.refuse {s : State} (code : RefusalCode) (index : BitVec 8) : HostPart s (s.refuse code index) :=
  ⟨s.slots, s.channels, s.cq, _, _, Eq.refl _⟩

theorem unlessBusy_hostPart (index : BitVec 8) (f : State → State) (s : State) (hf : HostPart s (f s)) :
    HostPart s (s.unlessBusy index f) := by
  unfold State.unlessBusy
  split
  · exact .refuse _ _
  · exact hf

theorem appendSlot_runPart (c : Fin 5) (k : Fin 64) (s : State) : RunPart s (appendSlot c k s) :=
  (RunPart.modSlot k _).trans (.modChannel c _)

theorem submit_hostPart (n : Fin 8) (k : Fin 64) (s : State) : HostPart s (submit n k s) := by
  unfold submit submitTo
  repeat' split
  any_goals exact .refuse _ _
  · exact ((appendSlot_runPart _ k s).trans (takeNext_runPart _ _)).hostPart
  · exact (appendSlot_runPart _ k s).hostPart

theorem onChannel_hostPart (n : Fin 8) (f : Fin 5 → State → State) (s : State) (hf : ∀ c, HostPart s (f c s)) :
    HostPart s (onChannel n f s) := by
  refine unlessBusy_hostPart _ _ s ?_
  split
  · exact hf _
  · exact .refuse _ _

theorem enableChannel_hostPart (c : Fin 5) (s : State) : HostPart s (enableChannel c s) := by
  unfold enableChannel
  split
  · exact (takeNext_runPart c s).hostPart
  · exact .refuse _ _

theorem disableChannel_hostPart (c : Fin 5) (s : State) : HostPart s (disableChannel c s) := by
  unfold disableChannel
  split
  · exact (RunPart.modChannel c _).hostPart
  · exact .refuse _ _

theorem resumeChannel_hostPart (c : Fin 5) (s : State) : HostPart s (resumeChannel c s) := by
  unfold resumeChannel
  split
  · exact (takeNext_runPart c s).hostPart
  · exact .refuse _ _

theorem cancelChannel_hostPart (c : Fin 5) (s : State) : HostPart s (cancelChannel c s) := by
  unfold cancelChannel
  split
  · exact .refuse _ _
  · exact (emptyQueue_runPart c s).hostPart
  · exact (emptyQueue_runPart c s).hostPart
  · exact ((emptyQueue_runPart c s).trans (.modChannel c _)).hostPart
  · exact ((emptyQueue_runPart c s).trans (.modChannel c _)).hostPart
  · exact ((emptyQueue_runPart c s).trans (cancelRun_runPart c _)).hostPart

theorem popRecord_hostPart (s : State) : HostPart s (popRecord s) := by
  unfold popRecord
  split
  · exact .refuse _ _
  · split
    · exact (RunPart.modCq _).hostPart
    · split
      · exact ((RunPart.modCq _).trans (finishRun_runPart _ _ _)).hostPart
      · exact (RunPart.modCq _).hostPart

theorem pop_hostPart (s : State) : HostPart s (pop s) := unlessBusy_hostPart _ _ s (popRecord_hostPart s)

/-! ### The lowest return slots -/

theorem freeReturn_eq_some {ch : Channel} {i : Fin 8} (h : ch.returns[i] = .free)
    (low : ∀ j : Fin 8, j < i → ch.returns[j] ≠ .free) : freeReturn ch = some i :=
  firstFin_eq_some (decide_eq_true h) fun j hj => decide_eq_false (low j hj)

theorem freeReturn_eq_none {ch : Channel} : freeReturn ch = none ↔ ∀ i : Fin 8, ch.returns[i] ≠ .free := by
  simp only [freeReturn, firstFin_eq_none, decide_eq_false_iff_not, ne_eq]

theorem headReturn_eq_some {ch : Channel} {i : Fin 8} {z : Size} {h : Nat} {words : List Word}
    (hi : ch.returns[i] = .filled ch.delivery z h words)
    (low : ∀ j : Fin 8, j < i → isFilledWith ch.delivery ch.returns[j] = false) : headReturn ch = some i :=
  firstFin_eq_some (by simp only [hi, isFilledWith, decide_true]) low

theorem headReturn_eq_none {ch : Channel} :
    headReturn ch = none ↔ ∀ i : Fin 8, isFilledWith ch.delivery ch.returns[i] = false := firstFin_eq_none

theorem portOfChannel_eq {c : Fin 5} {p : Fin 4} (h : p.val = c.val) : portOfChannel c = some p := by
  have hc : c.val < 4 := h ▸ p.isLt
  simp only [portOfChannel, hc, dite_true]
  exact congrArg some (Fin.ext h.symm)

end Sys2Proof.Machine
end

