-- ==== Sys2Proof/Laws/Admission.lean ====
section
/-! SUPPORT. What an admission can change: the queue with its buffers, the arbiter, the scrub, the window, the channels and the
ports, and nothing else. -/

namespace Sys2Proof.Machine

/-- `t` differs from `s` at most in the parts an admission acts on. -/
def AdmitPart (s t : State) : Prop :=
  ∃ paq nextEntry wdb arbiter scrub window channels ports,
    t = { s with
      paq := paq, nextEntry := nextEntry, wdb := wdb, arbiter := arbiter, scrub := scrub, window := window
      channels := channels, ports := ports }

theorem AdmitPart.rfl {s : State} : AdmitPart s s :=
  ⟨s.paq, s.nextEntry, s.wdb, s.arbiter, s.scrub, s.window, s.channels, s.ports, Eq.refl _⟩

theorem AdmitPart.trans {s t u : State} (h : AdmitPart s t) (k : AdmitPart t u) : AdmitPart s u := by
  obtain ⟨_, _, _, _, _, _, _, _, rfl⟩ := h
  obtain ⟨a, b, c, d, e, f, g, i, rfl⟩ := k
  exact ⟨a, b, c, d, e, f, g, i, Eq.refl _⟩

theorem AdmitPart.modChannel {s : State} (c : Fin 5) (f : Channel → Channel) : AdmitPart s (s.modChannel c f) :=
  ⟨s.paq, s.nextEntry, s.wdb, s.arbiter, s.scrub, s.window, _, s.ports, Eq.refl _⟩

theorem AdmitPart.modPort {s : State} (p : Fin 4) (f : StreamPort → StreamPort) : AdmitPart s (s.modPort p f) :=
  ⟨s.paq, s.nextEntry, s.wdb, s.arbiter, s.scrub, s.window, s.channels, _, Eq.refl _⟩

theorem AdmitPart.modScrub {s : State} (f : Scrub → Scrub) : AdmitPart s (s.modScrub f) :=
  ⟨s.paq, s.nextEntry, s.wdb, s.arbiter, _, s.window, s.channels, s.ports, Eq.refl _⟩

theorem AdmitPart.modArbiter {s : State} (f : Arbiter → Arbiter) : AdmitPart s (s.modArbiter f) :=
  ⟨s.paq, s.nextEntry, s.wdb, _, s.scrub, s.window, s.channels, s.ports, Eq.refl _⟩

theorem AdmitPart.modWindow {s : State} (f : Window → Window) : AdmitPart s (s.modWindow f) :=
  ⟨s.paq, s.nextEntry, s.wdb, s.arbiter, s.scrub, _, s.channels, s.ports, Eq.refl _⟩

theorem offerNext_admitPart (c : Fin 5) (s : State) : AdmitPart s (offerNext c s) := by
  unfold offerNext
  split
  · exact .modChannel c _
  · exact .rfl

theorem enqueue_admitPart (src : Source) (o : Offer) (b : Buffer) (s : State) : AdmitPart s (enqueue src o b s) :=
  ⟨_, _, s.wdb, s.arbiter, s.scrub, s.window, s.channels, s.ports, Eq.refl _⟩

theorem scrubSees_admitPart (burst : Nat) (s : State) : AdmitPart s (scrubSees burst s) := by
  unfold scrubSees
  split
  · exact .rfl
  · split
    · exact .modScrub _
    · exact .rfl
  · split
    · exact ((AdmitPart.modScrub _).trans (.modArbiter _)).trans (.modScrub _)
    · exact .rfl

theorem enqueueWrite_admitPart (src : Source) (o : Offer) (words : List Word) (s : State) :
    AdmitPart s (enqueueWrite src o words s) := by
  unfold enqueueWrite
  split
  · exact .rfl
  · rename_i i _
    have taken : AdmitPart s { s with wdb := s.wdb.set i (some words) } :=
      ⟨s.paq, s.nextEntry, _, s.arbiter, s.scrub, s.window, s.channels, s.ports, Eq.refl _⟩
    have queued := taken.trans (enqueue_admitPart src o (.wdb i) _)
    split
    · exact queued
    · exact queued.trans (scrubSees_admitPart _ _)

theorem countScrubWait_admitPart (s : State) : AdmitPart s (countScrubWait s) := by
  unfold countScrubWait
  split
  · exact .modArbiter _
  · exact .rfl

theorem admitRead_admitPart (c : Fin 5) (o : Offer) (s : State) : AdmitPart s (admitRead c o s) := by
  unfold admitRead
  split
  · exact .rfl
  · exact (AdmitPart.modChannel c _).trans (enqueue_admitPart _ _ _ _)

theorem admitInbound_admitPart (c : Fin 5) (o : Offer) (d : Slot) (s : State) : AdmitPart s (admitInbound c o d s) := by
  unfold admitInbound
  split
  · exact ((AdmitPart.modPort _ _).trans (.modChannel c _)).trans (enqueueWrite_admitPart _ _ _ _)
  · exact .rfl

theorem admitCopyWrite_admitPart (c : Fin 5) (o : Offer) (s : State) : AdmitPart s (admitCopyWrite c o s) := by
  unfold admitCopyWrite
  split
  · exact .rfl
  · split
    · exact (AdmitPart.modChannel c _).trans (enqueueWrite_admitPart _ _ _ _)
    · exact .rfl

theorem admitChannel_admitPart (c : Fin 5) (s : State) : AdmitPart s (admitChannel c s) := by
  unfold admitChannel
  split
  · refine AdmitPart.trans ?_ (offerNext_admitPart c _)
    split
    · exact admitRead_admitPart c _ s
    · exact admitInbound_admitPart c _ _ s
    · exact admitCopyWrite_admitPart c _ s
    · exact (AdmitPart.modChannel c _).trans (enqueueWrite_admitPart _ _ _ _)
  · exact .rfl

theorem admitWindow_admitPart (s : State) : AdmitPart s (admitWindow s) := by
  unfold admitWindow
  split
  · exact .rfl
  · split
    · exact (AdmitPart.modWindow _).trans (enqueue_admitPart _ _ _ _)
    · exact (AdmitPart.modWindow _).trans (enqueueWrite_admitPart _ _ _ _)

theorem admitScrub_admitPart (s : State) : AdmitPart s (admitScrub s) := by
  unfold admitScrub
  split
  · exact ((AdmitPart.modArbiter _).trans (.modScrub _)).trans (enqueue_admitPart _ _ _ _)
  · exact ((AdmitPart.modArbiter _).trans (.modScrub _)).trans (enqueueWrite_admitPart _ _ _ _)
  · exact .rfl

/-- All that an admission can change. -/
theorem admitFrom_admitPart (src : Source) (s : State) : AdmitPart s (admitFrom src s) := by
  unfold admitFrom
  split
  · exact (countScrubWait_admitPart s).trans (admitWindow_admitPart _)
  · exact admitScrub_admitPart s
  · exact ((countScrubWait_admitPart s).trans (.modArbiter _)).trans (admitChannel_admitPart _ _)

/-- A write is admitted only where a WDB slot is free, and takes the slot named free first. -/
theorem enqueueWrite_some {s : State} {i : Fin 16} (h : freeWdb s = some i) (src : Source) (o : Offer) (words : List Word) :
    enqueueWrite src o words s =
      (if src = .scrub then id else scrubSees (burstOf o.address))
        (enqueue src o (.wdb i) { s with wdb := s.wdb.set i (some words) }) := by
  simp only [enqueueWrite, h]
  split <;> rfl

/-- A write finds a WDB slot exactly while one is free (R28, R35). -/
theorem writeRoom_iff (s : State) : writeRoom s = true ↔ ∃ i : Fin 16, s.wdb[i] = none := by
  simp [writeRoom, freeWdb, firstFin, List.find?_isSome]

/-- The scrub's wait count at an admission of another source, as a record update (R33). -/
theorem countScrubWait_eq (s : State) :
    countScrubWait s =
      { s with
        arbiter :=
          { s.arbiter with
            scrubWait := if s.scrub.offered.isSome then min 64 (s.arbiter.scrubWait + 1) else s.arbiter.scrubWait } } := by
  unfold countScrubWait
  split <;> simp_all [State.modArbiter, promotedAt]

/-- The turn and the scrub's wait count at a channel's admission, as a record update (R31, R33). -/
theorem turned_eq (s : State) (c : Fin 5) :
    (countScrubWait s).modArbiter (turnAfter s c) =
      { s with
        arbiter :=
          { turnAfter s c s.arbiter with
            scrubWait := if s.scrub.offered.isSome then min 64 (s.arbiter.scrubWait + 1) else s.arbiter.scrubWait } } := by
  rw [countScrubWait_eq]
  unfold turnAfter State.modArbiter
  by_cases h : (if c = s.arbiter.turn then s.arbiter.remaining else s.channels[c].weight) - 1 = 0 <;>
    simp only [h, if_true, if_false]

/-- An admission takes place only while admission is open and the queue has a place (R25, R28). -/
theorem nextSource_some {s : State} {src : Source} (h : nextSource s = some src) :
    admissionOpen s = true ∧ s.paq.length < 24 := by
  unfold nextSource at h
  split at h
  · cases h
  · rename_i hopen
    simp only [Bool.not_eq_true', Bool.not_eq_false, Bool.and_eq_true, decide_eq_true_eq] at hopen
    exact hopen

end Sys2Proof.Machine
end

