-- ==== Sys2Proof/Laws/Banks.lean ====
section
/-! SUPPORT. What the transitions of the banks and layers can change: the bank table and the layer records, and nothing else. -/

namespace Sys2Proof.Machine

/-- `t` differs from `s` at most in the bank table and the layer records. -/
def BankPart (s t : State) : Prop := ∃ banks layerRecords, t = { s with banks := banks, layerRecords := layerRecords }

theorem BankPart.rfl {s : State} : BankPart s s := ⟨s.banks, s.layerRecords, Eq.refl _⟩

theorem BankPart.trans {s t u : State} (h : BankPart s t) (k : BankPart t u) : BankPart s u := by
  obtain ⟨_, _, rfl⟩ := h
  obtain ⟨a, b, rfl⟩ := k
  exact ⟨a, b, Eq.refl _⟩

theorem BankPart.modBank {s : State} (b : Fin 32) (f : Bank → Bank) : BankPart s (s.modBank b f) :=
  ⟨_, s.layerRecords, Eq.refl _⟩

theorem a2cExpired_bankPart (b : Fin 32) (s : State) : BankPart s (a2cExpired b s) := by
  unfold a2cExpired
  split
  · exact .modBank b _
  · exact .rfl

theorem shtExpired_bankPart (b : Fin 32) (s : State) : BankPart s (shtExpired b s) := by
  unfold shtExpired
  split
  · exact .modBank b _
  · exact .rfl

theorem autoShutTaken_bankPart (b : Fin 32) (s : State) : BankPart s (autoShutTaken b s) := by
  unfold autoShutTaken
  split
  · exact .modBank b _
  · exact .rfl

theorem idleExpired_bankPart (b : Fin 32) (s : State) : BankPart s (idleExpired b s) := by
  unfold idleExpired
  split
  · exact .modBank b _
  · exact .rfl

theorem renewingExpired_bankPart (l : Fin 2) (s : State) : BankPart s (renewingExpired l s) := by
  unfold renewingExpired
  split
  · exact ⟨s.banks, _, Eq.refl _⟩
  · exact .rfl

theorem settleBank_bankPart (s : State) (b : Fin 32) : BankPart s (settleBank s b) := by
  unfold settleBank
  exact (((a2cExpired_bankPart b s).trans (autoShutTaken_bankPart b _)).trans (shtExpired_bankPart b _)).trans
    (idleExpired_bankPart b _)

theorem settleEach_bankPart (bs : List (Fin 32)) (s : State) : BankPart s (bs.foldl settleBank s) := by
  induction bs generalizing s with
  | nil => exact .rfl
  | cons b bs ih => exact (settleBank_bankPart s b).trans (ih _)

/-- All that the due transitions of a command slot can change. -/
theorem settleBanks_bankPart (s : State) : BankPart s (settleBanks s) := by
  unfold settleBanks
  generalize List.finRange 32 = bs
  exact ((settleEach_bankPart bs s).trans (renewingExpired_bankPart 0 _)).trans (renewingExpired_bankPart 1 _)

/-- The due transitions of a bank leave every other bank as it is. -/
theorem settleBank_other {s : State} {b d : Fin 32} (h : d ≠ b) : (settleBank s b).banks[d] = s.banks[d] := by
  have hv : b.val ≠ d.val := fun e => h (Fin.ext e.symm)
  have idle : ∀ u : State, (idleExpired b u).banks[d] = u.banks[d] := fun u => by unfold idleExpired; split <;> simp [hv]
  have sht : ∀ u : State, (shtExpired b u).banks[d] = u.banks[d] := fun u => by unfold shtExpired; split <;> simp [hv]
  have auto : ∀ u : State, (autoShutTaken b u).banks[d] = u.banks[d] := fun u => by
    unfold autoShutTaken; split <;> simp [hv]
  have a2c : ∀ u : State, (a2cExpired b u).banks[d] = u.banks[d] := fun u => by unfold a2cExpired; split <;> simp [hv]
  unfold settleBank
  rw [idle, sht, auto, a2c]

/-- A bank's record with its due transitions in effect, in the order of `settleBank`. -/
def settledBank (s : State) (r : Bank) : Bank :=
  let r1 := if a2cDue s r then { r with state := .openRow, idle := idleLoad s } else r
  let r2 := if autoShutDue s r1 then r1.shutAt ((earliestShut s r1).getD s.mclk) else r1
  let r3 := if shtDue s r2 then { r2 with state := .closed } else r2
  if idleDue r3 then { r3 with idle := .expired } else r3

/-- The transitions of a bank read its own record, the count and the configuration. -/
theorem settledBank_of_bankPart {s t : State} (h : BankPart s t) (r : Bank) : settledBank t r = settledBank s r := by
  obtain ⟨_, _, rfl⟩ := h
  rfl

theorem a2cExpired_bank (s : State) (b : Fin 32) :
    (a2cExpired b s).banks[b] =
      if a2cDue s s.banks[b] then { s.banks[b] with state := .openRow, idle := idleLoad s } else s.banks[b] := by
  unfold a2cExpired
  split <;> simp

theorem autoShutTaken_bank (s : State) (b : Fin 32) :
    (autoShutTaken b s).banks[b] =
      if autoShutDue s s.banks[b] then s.banks[b].shutAt ((earliestShut s s.banks[b]).getD s.mclk) else s.banks[b] := by
  unfold autoShutTaken
  split <;> simp

theorem shtExpired_bank (s : State) (b : Fin 32) :
    (shtExpired b s).banks[b] =
      if shtDue s s.banks[b] then { s.banks[b] with state := .closed } else s.banks[b] := by
  unfold shtExpired
  split <;> simp

theorem idleExpired_bank (s : State) (b : Fin 32) :
    (idleExpired b s).banks[b] = if idleDue s.banks[b] then { s.banks[b] with idle := .expired } else s.banks[b] := by
  unfold idleExpired
  split <;> simp

theorem settleBank_bank (s : State) (b : Fin 32) : (settleBank s b).banks[b] = settledBank s s.banks[b] := by
  obtain ⟨_, _, h1⟩ := a2cExpired_bankPart b s
  obtain ⟨_, _, h2⟩ := (a2cExpired_bankPart b s).trans (autoShutTaken_bankPart b _)
  have due1 : ∀ r, autoShutDue (a2cExpired b s) r = autoShutDue s r := fun r => by rw [h1]; rfl
  have time1 : ∀ r, earliestShut (a2cExpired b s) r = earliestShut s r := fun r => by rw [h1]; rfl
  have now1 : (a2cExpired b s).mclk = s.mclk := by rw [h1]
  have due2 : ∀ r, shtDue (autoShutTaken b (a2cExpired b s)) r = shtDue s r := fun r => by rw [h2]; rfl
  unfold settleBank
  rw [idleExpired_bank, shtExpired_bank, due2, autoShutTaken_bank, due1, time1, now1, a2cExpired_bank]
  rfl

theorem settleEach_bank (bs : List (Fin 32)) (b : Fin 32) (s : State) :
    (b ∉ bs → (bs.foldl settleBank s).banks[b] = s.banks[b])
      ∧ (b ∈ bs → bs.Nodup → (bs.foldl settleBank s).banks[b] = settledBank s s.banks[b]) := by
  induction bs generalizing s with
  | nil => exact ⟨fun _ => rfl, fun h => absurd h List.not_mem_nil⟩
  | cons d bs ih =>
    obtain ⟨out, inn⟩ := ih (settleBank s d)
    refine ⟨fun h => ?_, fun h nd => ?_⟩
    · have h := not_or.1 (fun e => h (List.mem_cons.2 e))
      rw [List.foldl_cons, out h.2, settleBank_other h.1]
    · have nd := List.nodup_cons.1 nd
      rcases List.mem_cons.1 h with rfl | h
      · rw [List.foldl_cons, out nd.1, settleBank_bank]
      · have ne : b ≠ d := fun e => nd.1 (e ▸ h)
        rw [List.foldl_cons, inn h nd.2, settledBank_of_bankPart (settleBank_bankPart s d), settleBank_other ne]

/-- What the due transitions of a command slot give one bank. -/
theorem settleBanks_bank (s : State) (b : Fin 32) : (settleBanks s).banks[b] = settledBank s s.banks[b] := by
  have kept : ∀ (l : Fin 2) (u : State), (renewingExpired l u).banks = u.banks := fun l u => by
    unfold renewingExpired
    split <;> rfl
  unfold settleBanks
  rw [kept, kept]
  exact (settleEach_bank _ b s).2 (List.mem_finRange b) (List.nodup_finRange 32)

theorem settleBank_layerRecords (s : State) (b : Fin 32) : (settleBank s b).layerRecords = s.layerRecords := by
  unfold settleBank idleExpired shtExpired autoShutTaken a2cExpired
  repeat' split
  all_goals rfl

theorem settleEach_layerRecords (bs : List (Fin 32)) (s : State) :
    (bs.foldl settleBank s).layerRecords = s.layerRecords := by
  induction bs generalizing s with
  | nil => rfl
  | cons b bs ih => exact (ih _).trans (settleBank_layerRecords s b)

theorem renewingExpired_layer (k l : Fin 2) (s : State) :
    (renewingExpired k s).layerRecords[l] =
      if k = l ∧ s.layerRecords[l].renewing = some 0 then { s.layerRecords[l] with renewing := none }
      else s.layerRecords[l] := by
  unfold renewingExpired
  by_cases h : k = l
  · subst h
    split <;> rename_i r <;> simp only [r, and_self, and_false, if_true, if_false]
    exact Vector.getElem_set_self k.isLt
  · have hv : k.val ≠ l.val := fun e => h (Fin.ext e)
    split <;> simp [h, hv]

/-- What the due transitions of a command slot give one layer. -/
theorem settleBanks_layer (s : State) (l : Fin 2) :
    (settleBanks s).layerRecords[l] =
      if s.layerRecords[l].renewing = some 0 then { s.layerRecords[l] with renewing := none }
      else s.layerRecords[l] := by
  unfold settleBanks
  rw [renewingExpired_layer, renewingExpired_layer, settleEach_layerRecords]
  match l with
  | 0 => simp
  | 1 => simp

/-- The open window lists are kept by a layer's end of RENEWING. -/
theorem renewingExpired_openWindow (l k : Fin 2) (s : State) :
    (renewingExpired l s).layerRecords[k].openWindow = s.layerRecords[k].openWindow := by
  unfold renewingExpired
  split
  · simp only [modLayer_layerRecords, Fin.getElem_fin, Vector.getElem_set]
    split
    · rename_i h
      simp [h]
    · rfl
  · rfl

end Sys2Proof.Machine
end

