-- ==== Sys2Proof/Laws/Clock.lean ====
section
/-! SUPPORT. What the passing of one mclk can change: the count, the command slot and the running timers, and nothing else. -/

namespace Sys2Proof.Machine

/-- `t` differs from `s` at most in the count, the command slot and the timers. -/
def TickPart (s t : State) : Prop :=
  ∃ mclk slotTaken banks layerRecords renews port cq scrub,
    t = { s with
      mclk := mclk, slotTaken := slotTaken, banks := banks, layerRecords := layerRecords, renews := renews, port := port
      cq := cq, scrub := scrub }

theorem tick_tickPart (s : State) : TickPart s (tick s) := by
  unfold tick
  split
  · exact ⟨s.mclk, s.slotTaken, s.banks, s.layerRecords, s.renews, s.port, s.cq, s.scrub, rfl⟩
  · exact ⟨_, _, _, _, _, _, _, _, rfl⟩

theorem tick_held (s : State) (h : s.pinHeld = true) : tick s = s := by simp [tick, h]

theorem tick_mclk (s : State) (h : s.pinHeld = false) : (tick s).mclk = s.mclk + 1 := by simp [tick, h]

theorem tick_slotTaken (s : State) (h : s.pinHeld = false) : (tick s).slotTaken = false := by simp [tick, h]

theorem tick_renew (s : State) (l : Fin 2) (h : s.pinHeld = false) :
    (tick s).renews[l] = { s.renews[l] with timer := fall s.renews[l].timer } := by simp [tick, h, mapVector]

theorem tick_layerRecord (s : State) (l : Fin 2) (h : s.pinHeld = false) :
    (tick s).layerRecords[l] = { s.layerRecords[l] with renewing := fall s.layerRecords[l].renewing } := by
  simp [tick, h, mapVector]

theorem tick_bank (s : State) (b : Fin 32) (h : s.pinHeld = false) :
    (tick s).banks[b] = { s.banks[b] with idle := s.banks[b].idle.fall } := by simp [tick, h, mapVector]

theorem tick_cq_queue (s : State) : (tick s).cq.queue = s.cq.queue := by
  unfold tick
  split <;> rfl

end Sys2Proof.Machine
end

