-- ==== Sys2Proof/Laws/PortControl.lean ====
section
/-! SUPPORT. What memory port control can change: its own items, the scheduler's records, the renew controller, the scrub with
its wait count, the window, what the stack is in, the flags, the refusal record and the command bus. -/

namespace Sys2Proof.Machine

/-- `t` differs from `s` at most in the parts memory port control acts on. -/
def PortPart (s t : State) : Prop :=
  ∃ port banks clusters layerRecords dataBus renews scrub arbiter window stack flags refusal commandBus,
    t = { s with
      port := port, banks := banks, clusters := clusters, layerRecords := layerRecords, dataBus := dataBus
      renews := renews, scrub := scrub, arbiter := arbiter, window := window, stack := stack, flags := flags
      refusal := refusal, commandBus := commandBus }

theorem PortPart.rfl {s : State} : PortPart s s :=
  ⟨s.port, s.banks, s.clusters, s.layerRecords, s.dataBus, s.renews, s.scrub, s.arbiter, s.window, s.stack, s.flags,
    s.refusal, s.commandBus, Eq.refl _⟩

theorem PortPart.trans {s t u : State} (h : PortPart s t) (k : PortPart t u) : PortPart s u := by
  obtain ⟨_, _, _, _, _, _, _, _, _, _, _, _, _, rfl⟩ := h
  obtain ⟨a, b, c, d, e, f, g, i, j, l, m, n, o, rfl⟩ := k
  exact ⟨a, b, c, d, e, f, g, i, j, l, m, n, o, Eq.refl _⟩

theorem PortPart.modMemPort {s : State} (f : MemPort → MemPort) : PortPart s (s.modMemPort f) :=
  ⟨_, s.banks, s.clusters, s.layerRecords, s.dataBus, s.renews, s.scrub, s.arbiter, s.window, s.stack, s.flags,
    s.refusal, s.commandBus, Eq.refl _⟩

theorem PortPart.modStack {s : State} (f : Stack → Stack) : PortPart s (s.modStack f) :=
  ⟨s.port, s.banks, s.clusters, s.layerRecords, s.dataBus, s.renews, s.scrub, s.arbiter, s.window, _, s.flags,
    s.refusal, s.commandBus, Eq.refl _⟩

theorem PortPart.raise {s : State} (f : Flag) : PortPart s (s.raise f) :=
  ⟨s.port, s.banks, s.clusters, s.layerRecords, s.dataBus, s.renews, s.scrub, s.arbiter, s.window, s.stack, _,
    s.refusal, s.commandBus, Eq.refl _⟩

theorem PortPart.refuse {s : State} (code : RefusalCode) (index : BitVec 8) : PortPart s (s.refuse code index) :=
  ⟨s.port, s.banks, s.clusters, s.layerRecords, s.dataBus, s.renews, s.scrub, s.arbiter, s.window, s.stack, _, _,
    s.commandBus, Eq.refl _⟩

theorem PortPart.renewed {s : State} (r : Vector Renew 2) : PortPart s { s with renews := r } :=
  ⟨s.port, s.banks, s.clusters, s.layerRecords, s.dataBus, _, s.scrub, s.arbiter, s.window, s.stack, s.flags,
    s.refusal, s.commandBus, Eq.refl _⟩

theorem PortPart.modScrub {s : State} (f : Scrub → Scrub) : PortPart s (s.modScrub f) :=
  ⟨s.port, s.banks, s.clusters, s.layerRecords, s.dataBus, s.renews, _, s.arbiter, s.window, s.stack, s.flags,
    s.refusal, s.commandBus, Eq.refl _⟩

theorem PortPart.modArbiter {s : State} (f : Arbiter → Arbiter) : PortPart s (s.modArbiter f) :=
  ⟨s.port, s.banks, s.clusters, s.layerRecords, s.dataBus, s.renews, s.scrub, _, s.window, s.stack, s.flags,
    s.refusal, s.commandBus, Eq.refl _⟩

theorem PortPart.modWindow {s : State} (f : Window → Window) : PortPart s (s.modWindow f) :=
  ⟨s.port, s.banks, s.clusters, s.layerRecords, s.dataBus, s.renews, s.scrub, s.arbiter, _, s.stack, s.flags,
    s.refusal, s.commandBus, Eq.refl _⟩

theorem leaveService_portPart (s : State) : PortPart s (leaveService s) := by
  unfold leaveService scrubAbandon dropRenewDebts State.loseContents
  exact (((PortPart.renewed _).trans (.modScrub _)).trans (.modArbiter _)).trans (.modStack _)

theorem endOfferedWindow_portPart (s : State) : PortPart s (endOfferedWindow s) := by
  unfold endOfferedWindow endWindow
  split
  · exact (PortPart.modWindow _).trans (.raise _)
  · exact .rfl

theorem enterOffline_portPart (s : State) : PortPart s (enterOffline s) :=
  ((leaveService_portPart s).trans (endOfferedWindow_portPart _)).trans (.modMemPort _)

theorem enterFault_portPart (s : State) : PortPart s (enterFault s) :=
  ((leaveService_portPart s).trans (.modMemPort _)).trans (.raise _)

/-- A lane matches when each of its eight captured beats equals the pattern's (R159). -/
theorem laneMatches_iff (b : CapturedBeats) (i : Fin 5) :
    laneMatches b i = true ↔
      (∃ _ : i.val < 4, ∀ j : Fin 8, (b.data[i.val])[j] = 0) ∨ (i.val = 4 ∧ ∀ j : Fin 8, b.check[j] = 0) := by
  have all : ∀ {w : Nat} (v : Vector (BitVec w) 8),
      v.toList.all (fun x => x = 0) = true ↔ ∀ j : Fin 8, v[j] = 0 := fun v => by
    simp only [List.all_eq_true, Vector.mem_toList_iff, decide_eq_true_eq]
    refine ⟨fun h j => h _ (Vector.getElem_mem j.isLt), fun h x hx => ?_⟩
    obtain ⟨k, hk, rfl⟩ := Vector.mem_iff_getElem.1 hx
    exact h ⟨k, hk⟩
  unfold laneMatches
  split
  · rename_i h
    rw [all]
    exact ⟨fun m => .inl ⟨h, m⟩, fun m => m.elim (fun ⟨_, m⟩ => m) fun m => absurd m.1 (by omega)⟩
  · rename_i h
    rw [all]
    exact ⟨fun m => .inr ⟨by omega, m⟩, fun m => m.elim (fun ⟨n, _⟩ => absurd n h) fun m => m.2⟩

theorem finishSweep_portPart (s : State) : PortPart s (finishSweep s) := by
  have formed : PortPart s (formRecords s) := .modMemPort _
  unfold finishSweep
  dsimp only
  split
  · split
    · exact formed.trans (enterFault_portPart _)
    · exact (formed.trans (.modMemPort _)).trans (.raise _)
  · split
    · exact (formed.trans (.modMemPort _)).trans (.raise _)
    · exact formed.trans (.modMemPort _)
  · exact formed

theorem patternDataEnded_portPart (b : CapturedBeats) (s : State) : PortPart s (patternDataEnded b s) := by
  have compared : ∀ tap, PortPart s (compareLanes b tap s) := fun _ => .modMemPort _
  unfold patternDataEnded
  split
  · split
    · split
      · exact (compared _).trans (.modMemPort _)
      · exact (compared _).trans (finishSweep_portPart _)
    · exact .rfl
  · exact .rfl

theorem settleExpired_portPart (s : State) : PortPart s (settleExpired s) := by
  unfold settleExpired
  split
  · exact ⟨_, _, _, _, _, _, s.scrub, s.arbiter, s.window, _, s.flags, s.refusal, s.commandBus, Eq.refl _⟩
  · exact .rfl

theorem unlessBusy_portPart (index : BitVec 8) (f : State → State) (s : State) (hf : PortPart s (f s)) :
    PortPart s (s.unlessBusy index f) := by
  unfold State.unlessBusy
  split
  · exact .refuse _ _
  · exact hf

theorem start_portPart (s : State) : PortPart s (start s) := by
  refine unlessBusy_portPart _ _ s ?_
  split
  · exact .refuse _ _
  · split
    · exact .refuse _ _
    · exact .modMemPort _

theorem recal_portPart (s : State) : PortPart s (recal s) := by
  refine unlessBusy_portPart _ _ s ?_
  split
  · exact .modMemPort _
  · exact .refuse _ _

theorem stop_portPart (s : State) : PortPart s (stop s) := by
  refine unlessBusy_portPart _ _ s ?_
  split
  · exact enterOffline_portPart s
  · split
    · exact .modMemPort _
    · exact .refuse _ _

theorem park_portPart (s : State) : PortPart s (park s) := by
  refine unlessBusy_portPart _ _ s ?_
  split
  · exact .modMemPort _
  · exact .refuse _ _

theorem issueUnpark_frame (s : State) :
    issueUnpark s =
      { s with
        port := { s.port with state := .unparking, xpt := some (s.param .xpt) }
        stack := { s.stack with mode := .leaving }, commandBus := some .unpark, slotTaken := true } := rfl

/-- What an UNPARK command can do: it is refused, it issues in this mclk, or it issues in the next. -/
theorem unpark_cases (s : State) :
    (∃ code, unpark s = s.refuse code commandRegister) ∨ unpark s = issueUnpark s ∨ unpark s = issueUnpark (tick s) := by
  unfold unpark State.unlessBusy
  split
  · exact .inl ⟨_, rfl⟩
  · dsimp only
    split
    · split
      · exact .inr (.inr rfl)
      · exact .inr (.inl rfl)
    · exact .inl ⟨_, rfl⟩

theorem recalSweepStarted_portPart (s : State) : PortPart s (recalSweepStarted s) := by
  unfold recalSweepStarted
  split
  · exact .modMemPort _
  · exact .rfl

theorem stopCompleted_portPart (s : State) : PortPart s (stopCompleted s) := by
  unfold stopCompleted
  split
  · exact enterOffline_portPart s
  · exact .rfl

theorem xptExpired_portPart (s : State) : PortPart s (xptExpired s) := by
  unfold xptExpired
  split
  · exact ⟨_, s.banks, s.clusters, s.layerRecords, s.dataBus, _, s.scrub, s.arbiter, s.window, _, _, s.refusal,
      s.commandBus, Eq.refl _⟩
  · exact .rfl

end Sys2Proof.Machine
end

