-- ==== Sys2Proof/Laws/Returns.lean ====
section
/-! SUPPORT. What the end of a data phase can change. -/

namespace Sys2Proof.Machine

/-- `t` differs from `s` at most in the parts that the end of a data phase acts on. -/
def EndPart (s t : State) : Prop :=
  ∃ issued wdb stack slots channels cq flags window scrub faults transferReset,
    t = { s with
      issued := issued, wdb := wdb, stack := stack, slots := slots, channels := channels, cq := cq, flags := flags
      window := window, scrub := scrub, faults := faults, transferReset := transferReset }

theorem EndPart.rfl {s : State} : EndPart s s :=
  ⟨s.issued, s.wdb, s.stack, s.slots, s.channels, s.cq, s.flags, s.window, s.scrub, s.faults, s.transferReset, Eq.refl _⟩

theorem EndPart.trans {s t u : State} (h : EndPart s t) (k : EndPart t u) : EndPart s u := by
  obtain ⟨_, _, _, _, _, _, _, _, _, _, _, rfl⟩ := h
  obtain ⟨a, b, c, d, e, f, g, i, j, l, m, rfl⟩ := k
  exact ⟨a, b, c, d, e, f, g, i, j, l, m, Eq.refl _⟩

theorem RunPart.endPart {s t : State} (h : RunPart s t) : EndPart s t := by
  obtain ⟨a, b, c, d, rfl⟩ := h
  exact ⟨s.issued, s.wdb, s.stack, a, b, c, d, s.window, s.scrub, s.faults, s.transferReset, Eq.refl _⟩

theorem EndPart.modScrub {s : State} (f : Scrub → Scrub) : EndPart s (s.modScrub f) :=
  ⟨s.issued, s.wdb, s.stack, s.slots, s.channels, s.cq, s.flags, s.window, _, s.faults, s.transferReset, Eq.refl _⟩

theorem EndPart.modWindow {s : State} (f : Window → Window) : EndPart s (s.modWindow f) :=
  ⟨s.issued, s.wdb, s.stack, s.slots, s.channels, s.cq, s.flags, _, s.scrub, s.faults, s.transferReset, Eq.refl _⟩

theorem endWindow_endPart (x : WindowStatus) (s : State) : EndPart s (endWindow x s) :=
  (EndPart.modWindow _).trans (RunPart.raise _).endPart

theorem endTransferReset_endPart (s : State) : EndPart s (endTransferReset s) := by
  unfold endTransferReset
  split
  · exact ⟨s.issued, s.wdb, s.stack, s.slots, _, s.cq, _, s.window, s.scrub, s.faults, _, Eq.refl _⟩
  · exact .rfl

/-- The end of a transfer reset touches neither the issued list nor the words of the stack. -/
theorem endTransferReset_keeps (s : State) :
    (endTransferReset s).issued = s.issued ∧ (endTransferReset s).stack = s.stack ∧ (endTransferReset s).wdb = s.wdb
      ∧ (endTransferReset s).slots = s.slots := by
  unfold endTransferReset
  split <;> exact ⟨Eq.refl _, Eq.refl _, Eq.refl _, Eq.refl _⟩

theorem recordClass_endPart (k : WordClass) (burst : Nat) (src : Source) (s : State) :
    EndPart s (recordClass k burst src s) := by
  have noted : EndPart s { s with faults := s.faults.note k burst src } :=
    ⟨s.issued, s.wdb, s.stack, s.slots, s.channels, s.cq, s.flags, s.window, s.scrub, _, s.transferReset, Eq.refl _⟩
  cases k
  · exact noted
  · exact noted.trans (RunPart.raise _).endPart
  · exact noted.trans (RunPart.raise _).endPart

theorem channelReturn_endPart (c : Fin 5) (i : Fin 8) (e : Issued) (k : WordClass) (words : List Word) (s : State) :
    EndPart s (channelReturn c i e k words s) :=
  ((RunPart.modChannel c _).trans (settleChannel_runPart c _)).endPart

theorem windowReturn_endPart (e : Issued) (k : WordClass) (words : List Word) (s : State) :
    EndPart s (windowReturn e k words s) := by
  unfold windowReturn
  split
  · exact endWindow_endPart _ s
  · exact (EndPart.modWindow _).trans (endWindow_endPart _ _)

theorem scrubReturn_endPart (k : WordClass) (words : List Word) (s : State) : EndPart s (scrubReturn k words s) := by
  unfold scrubReturn
  split
  · split
    · exact .modScrub _
    · exact .modScrub _
  · exact .rfl

theorem deliver_endPart (e : Issued) (k : WordClass) (words : List Word) (s : State) :
    EndPart s (deliver e k words s) := by
  unfold deliver
  split
  · exact channelReturn_endPart _ _ e k words s
  · exact windowReturn_endPart e k words s
  · exact scrubReturn_endPart k words s
  · exact .rfl

/-- All that a return can change. -/
theorem takeReturn_endPart (flips : List StackWord) (s : State) : EndPart s (takeReturn flips s) := by
  unfold takeReturn
  split
  · exact .rfl
  · rename_i e rest _
    have left : EndPart s { s with issued := rest } :=
      ⟨_, s.wdb, s.stack, s.slots, s.channels, s.cq, s.flags, s.window, s.scrub, s.faults, s.transferReset, Eq.refl _⟩
    exact ((left.trans (recordClass_endPart _ _ _ _)).trans (deliver_endPart e _ _ _)).trans (endTransferReset_endPart _)

theorem releaseWdb_endPart (b : Buffer) (s : State) : EndPart s (releaseWdb b s) := by
  unfold releaseWdb
  split
  · exact ⟨s.issued, _, s.stack, s.slots, s.channels, s.cq, s.flags, s.window, s.scrub, s.faults, s.transferReset, Eq.refl _⟩
  · exact .rfl

theorem channelSent_endPart (c : Fin 5) (z : Size) (s : State) : EndPart s (channelSent c z s) := by
  unfold channelSent
  split
  · exact ((RunPart.modChannel c _).trans (.modSlot _ _)).endPart
  · exact ((RunPart.modChannel c _).trans (settleChannel_runPart c _)).endPart

theorem tellSent_endPart (e : Issued) (s : State) : EndPart s (tellSent e s) := by
  unfold tellSent
  split
  · exact channelSent_endPart _ _ s
  · exact endWindow_endPart _ s
  · split
    · exact .modScrub _
    · exact .rfl

/-- All that a data sent can change. -/
theorem takeSent_endPart (s : State) : EndPart s (takeSent s) := by
  unfold takeSent
  split
  · exact .rfl
  · rename_i e rest _
    have stored : EndPart s (storeWords e.address (wdbWords s e.buffer) { s with issued := rest }) :=
      ⟨_, s.wdb, _, s.slots, s.channels, s.cq, s.flags, s.window, s.scrub, s.faults, s.transferReset, Eq.refl _⟩
    exact ((stored.trans (releaseWdb_endPart e.buffer _)).trans (tellSent_endPart e _)).trans (endTransferReset_endPart _)

/-- The head of the issued list is taken only at the end of its data phase (R66, R67). -/
theorem endedHead_some {s : State} {k : Kind} {e : Issued} {rest : List Issued} (h : endedHead s k = some (e, rest)) :
    s.issued = e :: rest ∧ e.kind = k ∧ e.ends ≤ s.mclk := by
  unfold endedHead at h
  split at h
  · rename_i x r hx
    split at h
    · rename_i hc
      cases h
      simp only [Bool.and_eq_true, decide_eq_true_eq] at hc
      exact ⟨hx, hc.1, hc.2⟩
    · cases h
  · cases h

end Sys2Proof.Machine
end

