-- ==== Sys2Proof/Laws/Scheduler.lean ====
section
/-! SUPPORT. What the scheduler's choice guarantees, whatever class made it. -/

namespace Sys2Proof.Machine

/-- What holds of a choice when it is made (R9, R11, R18, R20, R49, R61). -/
def Admissible (s : State) : Choice → Prop
  | .openRow b _ => openEligible s b = true
  | .shut b => shutEligible s b = true
  | .column e => e ∈ s.paq ∧ columnEligible s e = true
  | .renew l =>
    renewEligible s l = true ∧
      (s.renews[l].urgent = true ∨ (s.renews[l].urgent = false ∧ -3 ≤ s.renews[l].debt))
  | .patternRead => patternEligible s = true
  | .park => parkEligible s = true

/-- Every candidate of an optional choice is admissible. -/
def Sound (s : State) (c : Option Choice) : Prop := ∀ x, c = some x → Admissible s x

theorem Sound.none {s : State} : Sound s none := fun _ h => nomatch h

theorem Sound.some {s : State} {x : Choice} (h : Admissible s x) : Sound s (some x) := fun _ e => by
  cases e
  exact h

theorem Sound.or {s : State} {c d : Option Choice} (hc : Sound s c) (hd : Sound s d) : Sound s (c.or d) := by
  cases c
  · exact hd
  · exact hc

theorem Sound.applied {s : State} {on : Bool} {c : Option Choice} (h : on = true → Sound s c) : Sound s (applied on c) := by
  cases on
  · exact .none
  · exact h (Eq.refl _)

theorem firstFin_some {n : Nat} {p : Fin n → Bool} {i : Fin n} (h : firstFin n p = some i) : p i = true :=
  List.find?_some h

theorem urgentOf_sound (s : State) (l : Fin 2) : Sound s (urgentOf s l) := by
  unfold urgentOf
  split
  · rename_i h
    split
    · rename_i b hb
      exact .some (Bool.and_eq_true_iff.1 (firstFin_some hb)).2
    · split
      · rename_i hr
        exact .some ⟨hr, .inl (Bool.and_eq_true_iff.1 h).2⟩
      · exact .none
  · exact .none

theorem class2_sound (s : State) : Sound s (class2 s) := by
  unfold class2
  cases ho : oldestOverdue s with
  | none => exact .none
  | some e =>
    have he : e ∈ s.paq := List.mem_of_find?_eq_some ho
    simp only [Option.bind_some, overdueService]
    split
    · split
      · rename_i h
        exact .some h
      · exact .none
    · split
      · split
        · rename_i h
          exact .some ⟨he, h⟩
        · exact .none
      · split
        · rename_i h
          exact .some (Bool.and_eq_true_iff.1 h).1
        · exact .none
    · exact .none
    · exact .none

theorem class3_sound (s : State) : Sound s (class3 s) := by
  intro x hx
  unfold class3 at hx
  obtain ⟨e, he, rfl⟩ := Option.map_eq_some_iff.1 hx
  have hm : e ∈ s.paq.filter (columnEligible s) := by
    rcases Option.or_eq_some_iff.1 he with h | ⟨_, h⟩
    · split at h
      · exact List.mem_of_find?_eq_some h
      · cases h
    · exact List.mem_of_mem_head? h
  exact List.mem_filter.1 hm

theorem class4_sound (s : State) : Sound s (class4 s) := by
  intro x hx
  obtain ⟨e, he, rfl⟩ := Option.map_eq_some_iff.1 hx
  have := List.find?_some he
  exact this

theorem class5_sound (s : State) : Sound s (class5 s) := by
  intro x hx
  obtain ⟨e, he, rfl⟩ := Option.map_eq_some_iff.1 hx
  have := List.find?_some he
  simp only [Bool.and_eq_true] at this
  exact this.2

theorem class6_sound (s : State) : Sound s (class6 s) := by
  intro x hx
  obtain ⟨b, hb, rfl⟩ := Option.map_eq_some_iff.1 hx
  exact (Bool.and_eq_true_iff.1 (firstFin_some hb)).1

theorem quietRenewOf_sound (s : State) (l : Fin 2) : Sound s (quietRenewOf s l) := by
  simp only [quietRenewOf]
  split
  · rename_i h
    simp only [Bool.and_eq_true, Bool.or_eq_true, decide_eq_true_eq, Bool.not_eq_true'] at h
    refine .some ⟨h.1.2, .inr ⟨h.1.1.1, ?_⟩⟩
    rcases h.2 with h | h <;> omega
  · exact .none

/-- The scheduler issues only what is eligible. -/
theorem choose_sound (s : State) : Sound s (choose s) := by
  unfold choose
  refine .or (.applied fun _ => (urgentOf_sound s 0).or (urgentOf_sound s 1)) <|
    .or (.applied fun _ => class2_sound s) <| .or (.applied fun _ => class3_sound s) <|
    .or (.applied fun _ => class4_sound s) <| .or (.applied fun _ => class5_sound s) <|
    .or (.applied fun _ => class6_sound s) <|
    .or ((quietRenewOf_sound s 0).or (quietRenewOf_sound s 1)) <|
    .or (.applied fun h => .some (Bool.and_eq_true_iff.1 h).2) (.applied fun h => .some (Bool.and_eq_true_iff.1 h).2)

/-- In a queue in order of age, the first entry that satisfies a test is the oldest that does. -/
theorem find_oldest {l : List Entry} {p : Entry → Bool} {e : Entry} (order : l.Pairwise fun e f => e.id < f.id)
    (he : e ∈ l) (h : p e = true) (oldest : ∀ f ∈ l, p f = true → e.id ≤ f.id) : l.find? p = some e := by
  induction l with
  | nil => exact absurd he List.not_mem_nil
  | cons x xs ih =>
    rw [List.pairwise_cons] at order
    rcases List.mem_cons.1 he with rfl | he'
    · simp [h]
    · have hx : p x = false := Bool.eq_false_iff.2 fun hc => by
        have := oldest x List.mem_cons_self hc
        have := order.1 e he'
        omega
      rw [List.find?_cons_of_neg (by simp [hx])]
      exact ih order.2 he' fun f hf => oldest f (List.mem_cons_of_mem _ hf)

end Sys2Proof.Machine
end

