-- ==== Sys2Proof/Tests/Slice0.lean ====
section
/-! SUPPORT. Tests: the ill-formed commands, worked examples of the manual, and for every statement with hypotheses a state and
operands that meet them. -/

open Sys2Proof Sys2Proof.Machine

namespace Sys2Proof.Tests

-- Each theorem is checked before the next is read: as tasks of their own they would wait for the kernel all together.
set_option Elab.async false

/-! ### States -/

/-- The reset state with memory port control in a state. -/
def portIn (x : PortState) : State := State.reset.modMemPort fun m => { m with state := x }

/-- The reset state with a STOP pending. -/
def stopping : State := (portIn .online).modMemPort fun m => { m with stopPending := true }

/-- The reset state with the reset input held. -/
def held : State := { State.reset with pinHeld := true }

/-- The reset state with a transfer reset active. -/
def inReset : State := { State.reset with transferReset := true }

/-- The reset state with a channel changed. -/
def withChannel (c : Fin 5) (f : Channel → Channel) : State := State.reset.modChannel c f

/-- The reset state with CH0 in a state, a queue before it. -/
def ch0In (x : ChannelState) (queue : List (Fin 64)) : State :=
  withChannel 0 fun ch => { ch with state := x, queue := queue }

/-- The reset state with a port changed. -/
def withPort (p : Fin 4) (f : StreamPort → StreamPort) : State := State.reset.modPort p f

/-- `n` unmarked zero words. -/
def words (n : Nat) : List (Word × Bool) := List.replicate n (0#32, false)

/-- A READ of bank 0, row 0, as CH0 makes it. -/
def readEntry (id : Nat) : Entry :=
  { id := id, source := .ch 0, kind := .read, size := .full, address := 0, buffer := .returnSlot 0 0, sequence := 0,
    bypass := 0, cap := 16, overdue := false, predecessors := [] }

/-- The port ONLINE with waiting accesses. -/
def waiting (paq : List Entry) : State := { portIn .online with paq := paq, nextEntry := 8 }

/-- Bank 0 open on row 0. -/
def bankOpen (s : State) : State := s.modBank 0 fun b => { b with state := .openRow, row := some 0 }

/-- A layer's debt and URGENT mark, its timer at its end. -/
def owing (l : Fin 2) (debt : Int) (urgent : Bool) : State :=
  (portIn .online).modRenew l fun r => { r with timer := some 0, debt := debt, urgent := urgent }

/-- `n` completion records, and one more place of the queue in use for each. -/
def records (n : Nat) : List Completion :=
  List.replicate n { sequence := 0, slot := 0, channel := 0, result := .done, tag := 0, doneUnits := 0 }

/-- A state with `n` completion records. -/
def queued (n : Nat) (s : State) : State := s.modCq fun u => { u with queue := records n }

/-- A descriptor of CH0 that passes start validation: two units inbound to address 0. -/
def goodSlot : Slot := { Slot.reset with units := 2 }

/-- Slot 1 holds a descriptor. -/
def withSlot (d : Slot) (s : State) : State := s.modSlot 1 fun _ => d

/-- CH0 in RUN on slot 1, `n` accesses outstanding. -/
def running (n : Nat) : State :=
  (withSlot { goodSlot with owner := .running, holder := some 0 } State.reset).modChannel 0 fun ch =>
    { ch with state := .run, current := some 1, runMode := some .live, unitsLeft := 2, outstanding := n }

/-! ### Well-formed commands -/

theorem test_wellFormed_other_register : (Instr.registerWrite 0x77#8 1#16).wellFormed = true := by decide

theorem test_illFormed_own_rows :
    ∀ i : Fin 12, (Instr.registerWrite
      ([0x00#8, 0x02#8, 0x05#8, 0x09#8, 0x10#8, 0x68#8, 0x69#8, 0x6B#8, 0x71#8, 0x72#8, 0x7B#8, 0xC8#8][i]) 0#16).wellFormed
        = false := by decide

theorem test_illFormed_long_return : (Instr.ret [0, 0, 0, 0, 0]).wellFormed = false := by decide

theorem test_wellFormed_return : (Instr.ret [0, 0, 0, 0]).wellFormed = true := by decide

theorem test_no_table_words : decodeTableWord 16 0 = none := rfl

/-! ### Worked examples of the manual -/

/-- 09: the longest run of passing taps, the first of equal ones. -/
theorem test_longest_run :
    longestRun 0x000000E0#32 = (5, 3) ∧ longestRun 0x00F000F0#32 = (4, 4) ∧ longestRun 0xFFFFFFFF#32 = (0, 32)
      ∧ longestRun 0x80000001#32 = (0, 1) ∧ longestRun 0#32 = (0, 0) := by decide +kernel

/-- R179: the command register's words. -/
theorem test_command_words :
    decodeCommand 0x0B05#16 = some (.submit 3 5) ∧ decodeCommand 0x7080#16 = some (.windowRead .half)
      ∧ decodeCommand 0xF800#16 = some .deviceReset ∧ decodeCommand 0x8000#16 = none
      ∧ decodeCommand 0x0000#16 = none := by decide

/-- R1, R47: the last byte of the stack. -/
theorem test_last_address :
    bankOf 0x3FFFFFFF = 31 ∧ rowOf 0x3FFFFFFF = 16383 ∧ columnOf 0x3FFFFFFF = 63 ∧ halfOf 0x3FFFFFFF = 1 := by decide

/-- R9, R46: the first OPEN for a waiting access, and then its READ once A2C has passed. -/
theorem test_open_then_read :
    choose (waiting [readEntry 0]) = some (.openRow 0 0)
      ∧ choose (bankOpen (waiting [readEntry 0])) = some (.column (readEntry 0)) := by decide +kernel

/-- R36: a window WRITE of a half burst moves the addressed half. -/
theorem test_window_half :
    windowWords { Window.reset with address := 16, buffer := Vector.ofFn fun i => BitVec.ofNat 16 i.val } .half
      = [0x00090008#32, 0x000B000A#32, 0x000D000C#32, 0x000F000E#32] := by decide +kernel

/-- R75: the renew timer's expiry at a debt of 5 makes the layer URGENT. -/
theorem test_urgent_at_six :
    (renewTimerExpired 0 (owing 0 5 false)).renews[0].urgent = true
      ∧ (renewTimerExpired 0 (owing 0 4 false)).renews[0].urgent = false := by decide +kernel

/-! ### Hypotheses that can be met: the machine, addresses, timing -/

theorem witness_StepTakesTheFrontCommand :
    State.reset.pending = [] ∧ ownEvent State.reset = some .commandSlot
      ∧ ownEvent { State.reset with slotTaken := true } = none
      ∧ (portIn .online).scrubTimerRuns = false
      ∧ ((portIn .online).modScrub fun u => { u with enable := true }).scrubTimerRuns = true ∧ held.pinHeld = true := by
  decide +kernel

theorem witness_CommandsCompleteAndKeepTheQueue :
    State.reset.pinHeld = false ∧ State.reset.renews[0].timer ≠ some 0 ∧ State.reset.port.settle ≠ some 0
      ∧ State.reset.port.sweep = .none ∧ State.reset.cq.timer ≠ some 0 ∧ State.reset.scrub.enable = false
      ∧ State.reset.issued = [] ∧ State.reset.channels[0].state ≠ .run ∧ State.reset.transferReset = false := by
  decide +kernel

theorem witness_DeviceReset : State.reset.pinHeld = false ∧ held.pinHeld = true ∧ Instr.start ≠ .resetPinRelease := by
  decide

theorem witness_AddressFields : (2 ^ 30 - 1 : Nat) < 2 ^ 30 := by decide

theorem witness_ShutEligibility : (1 : Fin 32) ≠ 0 ∧ shutEligible (bankOpen State.reset) 0 = true := by decide +kernel

theorem witness_ColumnEligibility :
    columnEligible (bankOpen (waiting [readEntry 0])) (readEntry 0) = true
      ∧ columnEligible (waiting [readEntry 0]) (readEntry 0) = false
      ∧ openEligible (waiting [readEntry 0]) 0 = true := by decide +kernel

theorem witness_CommandSlotIssues :
    State.reset.slotTaken = false ∧ choose (settleBanks State.reset) = none
      ∧ choose (settleBanks (waiting [readEntry 0])) = some (.openRow 0 0)
      ∧ ({ State.reset with slotTaken := true } : State).slotTaken = true
      ∧ (State.reset.modMemPort fun m => { m with sweep := .requested 31 }).port.sweep = .requested 31 := by
  decide +kernel

/-- R5, R62: what stands on the command bus, with and without auto-shut. -/
theorem witness_CommandSlotIssues_bus :
    (commandSlot (waiting [readEntry 0])).commandBus = some (.openRow 0 0)
      ∧ (commandSlot (bankOpen (waiting [readEntry 0]))).commandBus = some (.column .read 0 0 .full 0 false)
      ∧ (commandSlot { bankOpen (waiting [readEntry 0]) with rowPolicy := .shutAfterUse }).commandBus
        = some (.column .read 0 0 .full 0 true)
      ∧ (commandSlot { bankOpen (waiting [readEntry 0, readEntry 1]) with rowPolicy := .shutAfterUse }).commandBus
        = some (.column .read 0 0 .full 0 false)
      ∧ (commandSlot (owing 0 6 true)).commandBus = some (.renew 0) := by decide +kernel

theorem witness_IssueColumn :
    (∃ f ∈ (waiting [readEntry 0, readEntry 1]).paq, f.id ≠ 0 ∧ f.bank = (readEntry 0).bank ∧ f.row = (readEntry 0).row)
      ∧ ¬ ∃ f ∈ (waiting [readEntry 0]).paq, f.id ≠ 0 ∧ f.bank = (readEntry 0).bank ∧ f.row = (readEntry 0).row := by
  decide +kernel

/-- The port draining after a PARK, bank 0 still open. -/
def drainedOpen : State := bankOpen (portIn .parking)

theorem witness_ChosenCommandIsLegal :
    choose (waiting [readEntry 0]) = some (.openRow 0 0) ∧ choose (owing 0 6 true) = some (.renew 0)
      ∧ choose drainedOpen = some (.shut 0)
      ∧ choose (bankOpen (waiting [readEntry 0])) = some (.column (readEntry 0)) := by decide +kernel

/-- A WRITE to the same row as `readEntry`. -/
def writeEntry (id : Nat) : Entry := { readEntry id with kind := .write, buffer := .wdb 0 }

/-- Bank 0 open, a READ before a WRITE, the last burst a write. -/
def turned : State :=
  { bankOpen (waiting [readEntry 0, writeEntry 1]) with dataBus := { ends := none, last := some (0, .write) } }

theorem witness_UrgentAndRowHitClasses :
    ((classes (owing 0 6 true)).urgent = true ∧ urgentOf (owing 0 6 true) 0 = some (.renew 0))
      ∧ (urgentOf (owing 1 6 true) 0 = none ∧ urgentOf (owing 1 6 true) 1 = some (.renew 1))
      ∧ (shutEligible (bankOpen (owing 0 6 true)) 0 = true ∧ layerOfBank 0 = 0)
      ∧ (turned.paq.Pairwise (fun e f => e.id < f.id) ∧ class3 turned = some (.column (writeEntry 1)))
      ∧ class3 (bankOpen (waiting [readEntry 0, writeEntry 1])) = some (.column (readEntry 0))
      ∧ class3 { bankOpen (waiting [readEntry 0]) with dataBus := { ends := none, last := some (0, .write) } }
        = some (.column (readEntry 0))
      ∧ ((classes turned).accesses = true ∧ class1 turned = none ∧ class2 turned = none) := by decide +kernel

/-- R50, R54: where class 3 holds a candidate and where not; where class 1 has none for a layer. -/
theorem witness_UrgentAndRowHitClasses_candidates :
    (columnEligible turned (readEntry 0) = true ∧ columnEligible turned (writeEntry 1) = true)
      ∧ (columnEligible (waiting [readEntry 0]) (readEntry 0) = false ∧ class3 (waiting [readEntry 0]) = none)
      ∧ choose turned = some (.column (writeEntry 1))
      ∧ ({ owing 1 6 true with layers := 1 } : State).fitted 1 = false ∧ (owing 0 5 false).renews[0].urgent = false
      ∧ (renewEligible { owing 0 6 true with renewEn := false } 0 = false
        ∧ urgentOf { owing 0 6 true with renewEn := false } 0 = none) := by decide +kernel

/-- A READ of bank 0, row 1. -/
def otherRow (id : Nat) : Entry := { readEntry id with address := 32768 }

/-- Bank 0 open, an overdue READ of a row before a younger READ. -/
def overdueOf (e f : Entry) : State := bankOpen (waiting [{ e with overdue := true }, f])

/-- Bank 0 open with its idle timer expired. -/
def idleBank : State := (bankOpen (portIn .online)).modBank 0 fun b => { b with idle := .expired }

theorem witness_ClassOrder_accesses :
    (class2 (overdueOf (readEntry 0) (readEntry 1)) = some (.column { readEntry 0 with overdue := true })
        ∧ class2 (overdueOf (otherRow 0) (readEntry 1)) = some (.shut 0)
        ∧ class2 (bankOpen (waiting [readEntry 0, { otherRow 1 with overdue := true }])) = none
        ∧ class2 (waiting [{ readEntry 0 with overdue := true }]) = some (.openRow 0 0))
      ∧ (class4 (waiting [readEntry 0, otherRow 1]) = some (.openRow 0 0) ∧ class4 (portIn .online) = none)
      ∧ (class5 (bankOpen (waiting [otherRow 0, readEntry 1])) = some (.shut 0)
        ∧ class5 (bankOpen (waiting [readEntry 0, otherRow 1])) = none)
      ∧ (waiting [readEntry 0, otherRow 1]).paq.Pairwise (fun e f => e.id < f.id) := by decide +kernel

theorem witness_ClassOrder_rest :
    (class6 idleBank = some (.shut 0) ∧ class6 drainedOpen = some (.shut 0) ∧ class6 (bankOpen (portIn .online)) = none)
      ∧ (class7 (owing 0 1 false) = some (.renew 0) ∧ class7 (owing 1 (-4) false) = some (.renew 0)
        ∧ class7 { owing 0 (-4) false with layers := 1 } = none
        ∧ class7 ((owing 0 (-4) false).modRenew 1 fun r => { r with debt := 8 }) = some (.renew 1))
      ∧ patternEligible ((portIn .calibrating).modMemPort fun m => { m with sweep := .requested 0 }) = true
      ∧ parkEligible (portIn .parking) = true
      ∧ (classes (portIn .calibrating)).pattern = true ∧ (classes (portIn .parked)).urgent = false
      ∧ (classes stopping).accesses = false ∧ (classes (portIn .recalibrating)).pullIn = false := by decide +kernel

/-- Bank 0 with a record. -/
def bankIs (b : Bank) : State := { State.reset with mclk := 11, banks := State.reset.banks.set 0 b }

theorem witness_BankEvents :
    a2cDue (bankIs { Bank.reset with state := .opening, lastOpen := some 0 })
        { Bank.reset with state := .opening, lastOpen := some 0 } = true
      ∧ shtDue (bankIs { Bank.reset with state := .shutting, lastShut := some 0 })
        { Bank.reset with state := .shutting, lastShut := some 0 } = true
      ∧ earliestShut State.reset { Bank.reset with lastRead := some 5 } = some 11
      ∧ (bankIs { Bank.reset with idle := .running 0 }).banks[0].idle = .running 0
      ∧ (State.reset.modLayer 0 fun r => { r with renewing := some 0 }).layerRecords[0].renewing = some 0 := by
  decide +kernel

/-- R46: the slot's judgement settles each due transition: an OPENING bank, an auto-shut, a SHUTTING bank, a layer; a bank one
mclk early stays. -/
theorem witness_CommandSlotIssues_settles :
    (settleBanks (bankIs { Bank.reset with state := .opening, lastOpen := some 0 })).banks[0]
        = { Bank.reset with state := .openRow, lastOpen := some 0, idle := .running 32 }
      ∧ earliestShut (bankIs Bank.reset) { Bank.reset with lastRead := some 5 } = some 11
      ∧ (settleBanks (bankIs { Bank.reset with state := .openRow, autoShut := true, lastRead := some 5 })).banks[0]
        = { Bank.reset with state := .shutting, lastRead := some 5, lastShut := some 11 }
      ∧ (settleBanks { bankIs { Bank.reset with state := .openRow, autoShut := true, lastRead := some 5 } with
          mclk := 22 }).banks[0]
        = { Bank.reset with state := .closed, lastRead := some 5, lastShut := some 11 }
      ∧ (settleBanks (bankIs { Bank.reset with state := .shutting, lastShut := some 0 })).banks[0].state = .closed
      ∧ (settleBanks (bankIs { Bank.reset with state := .opening, lastOpen := some 1 })).banks[0].state = .opening
      ∧ (settleBanks (State.reset.modLayer 0 fun r => { r with renewing := some 0 })).layerRecords[0].renewing = none := by
  decide +kernel

theorem witness_BankEvents_notDue :
    ({ Bank.reset with state := .opening, lastOpen := some 1 } : Bank).lastOpen = some 1
      ∧ (bankIs Bank.reset).mclk < 1 + (bankIs Bank.reset).param .a2c
      ∧ (bankIs Bank.reset).mclk < 1 + (bankIs Bank.reset).param .sht
      ∧ earliestShut State.reset { Bank.reset with lastRead := some 6, lastOpen := some 0 } = some 28
      ∧ Bank.reset.idle ≠ .running 0 ∧ LayerRecord.reset.renewing ≠ some 0 := by decide +kernel

/-! ### Renew and memory port control -/

theorem witness_RenewTimerExpiry :
    (∀ d : Fin 9, (owing 0 d.val (6 ≤ d.val)).renews[0].timer = some 0
        ∧ Renew.Lawful (owing 0 d.val (6 ≤ d.val)).renews[0] ∧ (owing 0 d.val (6 ≤ d.val)).renews[0].debt = d.val)
      ∧ Renew.Lawful (owing 1 (-3) false).renews[1] ∧ Renew.Lawful (owing 1 3 true).renews[1]
      ∧ Renew.Lawful (owing 1 5 false).renews[1] := by decide +kernel

theorem witness_StartCommand :
    inReset.transferReset = true ∧ (portIn .starting).port.state = .starting
      ∧ timingConsistent State.reset = true ∧ State.reset.param .orc = State.reset.param .opm + State.reset.param .sht
      ∧ timingConsistent { State.reset with params := State.reset.params.set 3 38 } = false
      ∧ timingConsistent { State.reset with params := State.reset.params.set 0 29 } = false
      ∧ timingConsistent { State.reset with params := State.reset.params.set 6 15 } = false
      ∧ (portIn .fault).port.state = .fault := by decide +kernel

/-- The settle time over. -/
def settled : State := (portIn .starting).modMemPort fun m => { m with settle := some 0 }

/-- A sweep whose PATTERN READ at a tap has its data in, in a port state, with lanes that passed as given. -/
def swept (x : PortState) (tap : Fin 32) (passing : BitVec 32) : State :=
  (portIn x).modMemPort fun m =>
    { m with sweep := .inFlight tap 0, lanes := Vector.replicate 5 { Lane.reset with passing := passing } }

theorem witness_SweepSteps :
    settled.port.state = .starting ∧ settled.port.settle = some 0
      ∧ (swept .calibrating 30 0).port.sweep = .inFlight 30 0 ∧ (swept .calibrating 0 0).port.sweep = .inFlight 0 0
      ∧ ({ settled with protectEn := false } : State).protectEn = false := by decide +kernel

theorem witness_SweepEnd :
    ((Lane.form 4 (swept .calibrating 31 0xF#32).port.lanes[0]).result = .ok
        ∧ (Lane.form 4 (swept .calibrating 31 0x7#32).port.lanes[0]).result = .fail)
      ∧ (swept .recalibrating 31 0xF#32).port.sweep = .inFlight 31 0
      ∧ (swept .recalibrating 31 0xF#32).port.state = .recalibrating := by decide +kernel

/-- Every captured beat equals the pattern's. -/
def allMatch : CapturedBeats := { data := Vector.replicate 4 (Vector.replicate 8 0), check := Vector.replicate 8 0 }

/-- Data lane 0 differs in its last beat. -/
def lane0Differs : CapturedBeats :=
  { allMatch with data := allMatch.data.set 0 ((Vector.replicate 8 0).set 7 1) }

/-- R159, R160: tap 31 completes a window of four, and does not where a beat differs. -/
theorem witness_SweepEnd_tap31 :
    (patternDataEnded allMatch (swept .calibrating 31 0x70000000#32)).port.state = .online
      ∧ (patternDataEnded allMatch (swept .calibrating 31 0x70000000#32)).port.lanes[4].passing = 0xF0000000#32
      ∧ (patternDataEnded lane0Differs (swept .calibrating 31 0x70000000#32)).port.state = .fault
      ∧ (patternDataEnded lane0Differs (swept .calibrating 31 0x70000000#32)).port.lanes[0].passing
        = 0x70000000#32 := by decide +kernel

theorem witness_LaneRecord :
    let x := { Lane.reset with passing := 0xF#32 }
    4 ≤ (x.form 4).windowLength ∧ (x.form 5).windowLength < 5 ∧ (1 : Nat) ≤ 1 := by decide +kernel

theorem witness_PortCommands :
    Working (portIn .online) ∧ (portIn .online).port.stopPending = false ∧ stopping.port.stopPending = true
      ∧ (portIn .fault).port.state = .fault ∧ (portIn .parked).port.state = .parked
      ∧ (portIn .parking).port.state ≠ .parked
      ∧ (portIn .parked).slotTaken = false
      ∧ ({ portIn .parked with slotTaken := true, commandBus := some .park } : State).commandBus ≠ none := by
  decide +kernel

theorem witness_PortCommands_unpark : ∃ t, exec .unpark (portIn .parked) = .next t := ⟨_, rfl⟩

/-- R5, R22: a PARK and an UNPARK never share an mclk, and no slot follows UNPARK in its mclk. -/
theorem test_unpark_after_park :
    let s : State := { portIn .parked with mclk := 7, slotTaken := true, commandBus := some .park }
    ((unpark s).mclk = 8 ∧ (unpark s).port.xpt = some 300 ∧ (unpark s).commandBus = some .unpark)
      ∧ (unpark (portIn .parked)).mclk = 0 ∧ (unpark (portIn .parked)).slotTaken = true := by decide +kernel

/-- The stop pending, with a window command still offered. -/
def stoppingOffered : State := stopping.modWindow fun w => { w with status := .busy, offered := some (.read, .full) }

theorem witness_DrainAndUnparkEnds :
    drainSettled (portIn .recalibrating) = true ∧ (portIn .recalibrating).port.sweep = .none
      ∧ drainSettled stopping = true ∧ stopping.port.stopPending = true ∧ stoppingOffered.window.offered.isSome = true
      ∧ ((portIn .unparking).modMemPort fun m => { m with xpt := some 0 }).port.xpt = some 0 := by decide +kernel

/-- R162, R164, R85: what holds each of the three rows back; the rows then change nothing (log 3). -/
theorem witness_DrainAndUnparkEnds_notDue :
    let busy := { portIn .recalibrating with dataBus := { ends := some 1, last := none } }
    (busy.mclk < 1 ∧ recalSweepStarted busy = busy)
      ∧ (bankOpen (portIn .recalibrating)).banks[0].state ≠ .closed
      ∧ recalSweepStarted (bankOpen (portIn .recalibrating)) = bankOpen (portIn .recalibrating)
      ∧ stopCompleted { stopping with paq := [readEntry 0] } = { stopping with paq := [readEntry 0] }
      ∧ ({ stopping with issued := [{ source := .win, kind := .read, size := .half, address := 0, buffer := .window
                                      sequence := 0, ends := 9 }] } : State).issued ≠ []
      ∧ (portIn .unparking).port.xpt ≠ some 0 := by decide +kernel

/-! ### Descriptors and channels -/

theorem witness_SubmitCommand :
    (5 ≤ (5 : Fin 8).val ∧ (4 : Fin 8).val = (4 : Fin 5).val)
      ∧ (withSlot { goodSlot with owner := .taken } State.reset).slots[1].owner ≠ .host
      ∧ (ch0In .off (List.replicate 8 2)).channels[0].queue.length = 8
      ∧ (ch0In .run (List.replicate 7 2)).channels[0].queue.length < 8
      ∧ (ch0In .idle []).channels[0].state = .idle := by decide +kernel

theorem witness_EnableDisableResume :
    Working (ch0In .off [1]) ∧ (ch0In .halted [1]).channels[0].state = .halted ∧ (ch0In .idle []).channels[0].queue = []
      ∧ (ch0In .idle []).slots[1].owner = .host := by decide +kernel

theorem witness_EnableDisableResume_submit :
    (∃ t, exec (.submit 0 1) (ch0In .idle []) = .next t) ∧ ∃ t, exec (.submit 0 1) (ch0In .off []) = .next t :=
  ⟨⟨_, rfl⟩, ⟨_, rfl⟩⟩

theorem witness_CancelCommand :
    (ch0In .cancelling []).channels[0].state = .cancelling ∧ (ch0In .off [1]).channels[0].state = .off
      ∧ (ch0In .idle [1]).channels[0].state = .idle ∧ (ch0In .halted [1]).channels[0].state = .halted
      ∧ (ch0In .postWait []).channels[0].state = .postWait
      ∧ ((running 1).channels[0].state = .run ∧ (running 1).channels[0].outstanding ≠ 0)
      ∧ ((running 0).channels[0].outstanding = 0 ∧ (running 0).channels[0].current = some 1
        ∧ (running 0).channels[0].pendingRecord = none ∧ (running 0).slots[1].owner = .running
        ∧ (running 0).slots[1].holder = some 0 ∧ (running 0).slots[1].notify = false) := by decide +kernel

/-- A descriptor with no units asks for a record. -/
def badSlot : Slot := { Slot.reset with notify := true }

theorem witness_StartOfRun :
    validate State.reset 0 goodSlot = none ∧ validate State.reset 0 badSlot = some .failedFormat
      ∧ (queued 31 State.reset).cq.queue.length < 32 ∧ 32 ≤ (queued 32 State.reset).cq.queue.length
      ∧ (withSlot badSlot State.reset).slots[1].notify = true := by decide +kernel

/-- A COPY of two units. -/
def copySlot (addr dest : BitVec 30) : Slot := { goodSlot with op := .copy, addr := addr, dest := dest }

theorem witness_StartValidation :
    validate State.reset 4 goodSlot = some .failedFormat ∧ validate State.reset 0 { goodSlot with units := 0 }
        = some .failedFormat
      ∧ validate State.reset 4 (copySlot 0 40) = some .failedFormat
      ∧ validate State.reset 0 { goodSlot with addr := 0x3FFFFFF0 } = some .failedRange
      ∧ validate State.reset 0 { goodSlot with addr := 0x3FFFFFE0 } = none
      ∧ validate State.reset 4 (copySlot 0 16) = some .failedOverlap ∧ validate State.reset 4 (copySlot 0 32) = none
      ∧ validate { State.reset with layers := 1 } 0 { goodSlot with addr := 0x1FFFFFF0 } = some .failedRange := by
  decide +kernel

theorem witness_SplitterCuts :
    (∀ n : Fin 3, (running 0).channels[0].nextAddress % 32 = 0 ∧ n.val < 3)
      ∧ halvesOnly (copySlot 0 16) = true ∧ halvesOnly (copySlot 0 32) = false
      ∧ (16#30).toNat % 32 ≠ 0 ∧ goodSlot.addr.toNat % 16 = 0 := by decide +kernel

/-- CH0 on slot 1 with an operation, the bound port's FIFO holding words. -/
def flowing (op : Op) (stop : Bool) (fifo : List (Word × Bool)) : State :=
  ((running 0).modSlot 1 fun d => { d with op := op, stopOnMark := stop }).modPort 0 fun q => { q with fifo := fifo }

/-- CH4 on a COPY of slot 1, a return slot as given. -/
def copies (mode : RunMode) (r : ReturnSlot) (left : Nat) : State :=
  (withSlot (copySlot 16 64) State.reset).modChannel 4 fun ch =>
    { ch with
      state := .run, current := some 1, runMode := some mode, nextAddress := 16, unitsLeft := left
      returns := ch.returns.set 3 r }

theorem witness_ChannelOffers :
    (splitterNext (running 0).channels[0] goodSlot = some (.full, 0) ∧ splitterNext Channel.reset goodSlot = none)
      ∧ (nextOffer (flowing .inbound false (words 8)) 0 = some { kind := .write, size := .full, address := 0, sequence := 0 }
        ∧ nextOffer (flowing .inbound false (words 7)) 0 = none
        ∧ (nextOffer (flowing .inbound true (words 2 ++ [(9#32, true)])) 0).isSome = true)
      ∧ (nextOffer (flowing .outbound false []) 0 = some { kind := .read, size := .full, address := 0, sequence := 0 }
        ∧ (running 0).channels[0].returns[0] = .free)
      ∧ nextOffer (copies .stopped (.filled 0 .half 1 [1, 2, 3, 4]) 2) 4
        = some { kind := .write, size := .half, address := 64, sequence := 0 }
      ∧ nextOffer (copies .live .free 2) 4 = some { kind := .read, size := .half, address := 16, sequence := 0 }
      ∧ nextOffer (copies .live .free 0) 4 = none ∧ nextOffer (copies .stopped .free 2) 4 = none := by decide +kernel

/-- Slot 1 RUNNING with a result and a link. -/
def ended (r : Result) (link : Option (Fin 64)) : State :=
  (running 0).modSlot 1 fun d => { d with result := r, link := link }

theorem witness_EndOfRun :
    ((ended .done none).slots[1].link = none ∧ (ended .done none).channels[0].queue = [])
      ∧ (ended .failedData none).slots[1].result = .failedData
      ∧ ((ended .done (some 2)).slots[2].owner = .host ∧ (ended .done (some 1)).slots[1].link = some 1)
      ∧ ((ended .done (some 2)).modSlot 2 fun d => { d with owner := .taken }).slots[2].owner ≠ .host
      ∧ ((ended .done none).modChannel 0 fun ch => { ch with state := .cancelling, queue := [3] }).channels[0].queue
        = [3] := by decide +kernel

theorem witness_EndOfRun_conditions :
    (running 0).channels[0].current = some 1
      ∧ (liveComplete { (running 0).channels[0] with unitsLeft := 0 } .inbound = true
        ∧ liveComplete (running 0).channels[0] .inbound = false)
      ∧ (endResult ((running 0).modChannel 0 fun ch => { ch with runMode := some .stopped, stopPoint := some 0 }) 0
          = some .failedData
        ∧ endResult ((running 1).modChannel 0 fun ch => { ch with runMode := some .stopped, stopPoint := some 0 }) 0
          = none)
      ∧ endResult ((running 0).modChannel 0 fun ch => { ch with state := .cancelling, runMode := some .cancelled }) 0
        = some .cancelled
      ∧ ((queued 31 State.reset).cq.queue.length < 32 ∧ 32 ≤ (queued 32 State.reset).cq.queue.length)
      ∧ ((running 0).modSlot 1 fun d => { d with notify := true }).slots[1].notify = true := by decide +kernel

/-! ### The stream ports -/

theorem witness_PortStrobes :
    (withPort 0 fun q => { q with enable := true, fifo := words 31 }).ports[0].fifo.length < 32
      ∧ 32 ≤ (withPort 0 fun q => { q with enable := true, fifo := words 32 }).ports[0].fifo.length
      ∧ State.reset.ports[0].direction = .inward ∧ State.reset.ports[0].enable = false
      ∧ (withPort 3 fun q => { q with direction := .outward, enable := true, fifo := words 1 }).ports[3].fifo
        = [(0#32, false)]
      ∧ (withPort 3 fun q => { q with direction := .outward, enable := true }).ports[3].fifo = [] := by decide +kernel

theorem witness_PortEnableWrite :
    Working State.reset ∧ (2#16 ≠ 0#16 ∧ 2#16 ≠ 1#16) ∧ State.reset.ports[0].enable = false
      ∧ (withPort 0 fun q => { q with direction := .outward }).ports[0].direction = .outward := by decide +kernel

theorem witness_PortEnableWrite_resets :
    (∃ u, exec .transferReset State.reset = .next u) ∧ ∃ u, exec .deviceReset State.reset = .next u :=
  ⟨⟨_, rfl⟩, ⟨_, rfl⟩⟩

theorem witness_PortDirectionAndFlush :
    Working State.reset ∧ State.reset.channels[0].state = .off ∧ (ch0In .idle []).channels[0].state ≠ .off
      ∧ (withPort 0 fun q => { q with direction := .outward }).ports[0].direction = .outward
      ∧ (4 ≤ (4 : Fin 8).val ∧ (3 : Fin 8).val = (3 : Fin 4).val) ∧ (ch0In .run []).channels[0].state = .run
      ∧ inReset.transferReset = true ∧ 5 ≤ (5 : Fin 8).val := by decide +kernel

/-- CH0 in an OUTBOUND run, one HALF slot filled with the words given, `left` units to come, the FIFO one word from full. -/
def placing (ws : List Word) (left : Nat) : State :=
  ((withSlot { goodSlot with op := .outbound, owner := .running, holder := some 0 } State.reset).modPort 0 fun q =>
      { q with fifo := words 31 }).modChannel 0 fun ch =>
    { ch with
      state := .run, current := some 1, runMode := some .live, unitsLeft := left, nextSequence := 1, outstanding := 0
      returns := ch.returns.set 7 (.filled 0 .half 0 ws) }

theorem witness_WordPlacement :
    (placing [5, 6] 0).ports[0].fifo.length < 32 ∧ (placing [5, 6] 0).channels[0].returns[7] = .filled 0 .half 0 [5, 6]
      ∧ (∀ j : Fin 8, j < 7 → isFilledWith 0 (placing [5] 0).channels[0].returns[j] = false)
      ∧ (placing [5] 0).channels[0].unitsLeft = 0
      ∧ (placing [5] 0).channels[0].delivery + 1 = (placing [5] 0).channels[0].nextSequence
      ∧ (placing [5] 1).channels[0].unitsLeft ≠ 0 ∧ (placing [5, 6] 0).channels[0].delivery ≠ 1
      ∧ ((placing [5] 1).modChannel 0 fun ch => { ch with runMode := some .stopped, stopPoint := some 1 }).channels[0].stopPoint
        = some 1 := by decide +kernel

/-! ### Admission -/

/-- The port ONLINE with a channel's WRITE offered. -/
def offering (c : Fin 5) (o : Offer) : State :=
  (portIn .online).modChannel c fun ch =>
    { ch with state := .run, current := some 1, runMode := some .live, unitsLeft := 2, offered := some o }

/-- A burst's access. -/
def offer (k : Kind) : Offer := { kind := k, size := .full, address := 0, sequence := 0 }

/-- The port ONLINE with a scrub access offered after `n` other admissions. -/
def scrubbing (n : Nat) : State :=
  ((portIn .online).modScrub fun u => { u with enable := true, offered := some .read }).modArbiter fun a =>
    { a with scrubWait := n }

/-- The port ONLINE with a window access offered. -/
def windowing (k : Kind) : State :=
  (portIn .online).modWindow fun w => { w with status := .busy, offered := some (k, .half) }

theorem witness_AdmissionOrder :
    nextSource (windowing .write) = some .win ∧ nextSource (scrubbing 64) = some .scrub
      ∧ (scrubReady (scrubbing 63) = true ∧ (scrubbing 63).arbiter.scrubWait ≠ 64)
      ∧ (channelReady (offering 4 (offer .write)) 4 = true ∧ nextSource (offering 4 (offer .write)) = some (.ch 4))
      ∧ nextSource State.reset = none ∧ nextSource { windowing .read with paq := List.replicate 24 (readEntry 0) } = none
      ∧ (1 ≤ State.reset.arbiter.remaining ∧ 1 ≤ State.reset.channels[0].weight
        ∧ 2 ≤ State.reset.arbiter.remaining ∧ (1 : Fin 5) ≠ State.reset.arbiter.turn)
      ∧ (State.reset.modArbiter fun a => { a with remaining := 1 }).arbiter.remaining = 1
      ∧ (withChannel 1 fun ch => { ch with weight := 1 }).channels[1].weight = 1 := by decide +kernel

/-- No WDB slot is free. -/
def noRoom (s : State) : State := { s with wdb := Vector.replicate 16 (some []) }

/-- R28: what is admissible with no WDB slot and with no return slot free. -/
theorem witness_AdmissionOrder_ready :
    (windowReady (noRoom (windowing .read)) = true ∧ windowReady (noRoom (windowing .write)) = false
        ∧ windowReady (portIn .online) = false)
      ∧ (scrubReady (noRoom (scrubbing 0)) = true
        ∧ scrubReady (noRoom ((scrubbing 0).modScrub fun u => { u with offered := some .writeBack })) = false
        ∧ scrubReady (portIn .online) = false)
      ∧ (channelReady (noRoom (offering 4 (offer .write))) 4 = false
        ∧ channelReady (noRoom (offering 4 (offer .read))) 4 = true
        ∧ channelReady ((offering 4 (offer .read)).modChannel 4 fun ch =>
            { ch with returns := Vector.replicate 8 (.reserved 0 .full 0) }) 4 = false
        ∧ channelReady (portIn .online) 4 = false) := by decide +kernel

theorem witness_AdmissionOfReads :
    (windowing .read).window.offered = some (.read, .half) ∧ (scrubbing 0).scrub.offered = some .read
      ∧ (offering 0 (offer .read)).channels[0].offered = some { kind := .read, size := .full, address := 0, sequence := 0 }
      ∧ (offering 0 (offer .read)).channels[0].current = some 1
      ∧ (offering 0 (offer .read)).channels[0].returns[0] = .free := by decide +kernel

/-- The state with a scrub record. -/
def scrubHolds (r : ScrubRecord) (o : Option ScrubOffer) : State :=
  (portIn .online).modScrub fun u => { u with enable := true, record := r, offered := o }

/-- All WDB slots but the last in use. -/
def wdbFull : State := { State.reset with wdb := (Vector.replicate 16 (some [])).set 15 none }

theorem witness_AdmissionOfWrites :
    (offer .write).kind = .write ∧ State.reset.wdb[0] = none ∧ wdbFull.wdb[15] = none
      ∧ (∀ j : Fin 16, j < 15 → wdbFull.wdb[j].isSome = true)
      ∧ (scrubHolds (.reading 0 false) none).scrub.record = .reading (burstOf 0) false
      ∧ (scrubHolds (.writing 0 []) (some .writeBack)).scrub.record = .writing (burstOf 0) []
      ∧ (scrubHolds (.writing 0 []) none).scrub.offered = none
      ∧ State.reset.scrub.record.burst ≠ some (burstOf 0) := by decide +kernel

/-- CH4 with a COPY's data at the delivery pointer. -/
def copying : State :=
  (withSlot (copySlot 0 64) (offering 4 (offer .write))).modChannel 4 fun ch =>
    { ch with returns := ch.returns.set 0 (.filled 0 .full 0 (List.replicate 8 7)) }

theorem witness_WriteData :
    (windowing .write).window.offered = some (.write, .half)
      ∧ (scrubHolds (.writing 0 []) (some .writeBack)).scrub.offered = some .writeBack
      ∧ (copying.channels[4].current = some 1 ∧ copying.slots[1].op = .copy
        ∧ copying.channels[4].returns[0] = .filled 0 .full 0 (List.replicate 8 7) ∧ copying.channels[4].delivery = 0)
      ∧ (withSlot { goodSlot with op := .fill } (offering 4 (offer .write))).slots[1].op = .fill
      ∧ wordsOf .full ≤ ((withSlot goodSlot (offering 0 (offer .write))).modPort 0 fun q =>
          { q with fifo := words 8 }).ports[0].fifo.length
      ∧ ((words 3 ++ [(9#32, true)])[3]? = some (9#32, true) ∧ (words 3 ++ [(9#32, true)])[2]? = some (0#32, false))
      ∧ ((withSlot { goodSlot with stopOnMark := true } (offering 0 (offer .write))).slots[1].stopOnMark = true
        ∧ 3 < wordsOf .full ∧ 7 < wordsOf .full ∧ (words 7 ++ [(9#32, true)])[7]? = some (9#32, true)) := by
  decide +kernel

/-- R31, R33: a channel's FILL write takes the turn while the scrub waits; a write-back clears the wait count. -/
theorem witness_WriteData_arbiter :
    (admitFrom (.ch 4) ((withSlot { goodSlot with op := .fill } (offering 4 (offer .write))).modScrub fun u =>
        { u with offered := some .read })).arbiter = { turn := 4, remaining := 1, scrubWait := 1 }
      ∧ (admitFrom .win ((windowing .write).modArbiter fun a => { a with scrubWait := 9 })).arbiter.scrubWait = 9
      ∧ (admitFrom .win ((windowing .write).modScrub fun u => { u with offered := some .read })).arbiter.scrubWait = 1
      ∧ (admitFrom .scrub ((scrubHolds (.writing 0 []) (some .writeBack)).modArbiter fun a =>
          { a with scrubWait := 9 })).arbiter.scrubWait = 0 := by decide +kernel

/-! ### Returns, data sent, protection, scrub -/

/-- An issued access whose data phase has ended. -/
def issuedAs (k : Kind) (b : Buffer) (src : Source) : Issued :=
  { source := src, kind := k, size := .half, address := 16, buffer := b, sequence := 0, ends := 0 }

/-- The access at the head of the issued list, with WDB slot 0 held. -/
def issuedHead (k : Kind) (b : Buffer) (src : Source) : State :=
  { portIn .online with issued := [issuedAs k b src], wdb := State.reset.wdb.set 0 (some [1, 2, 3, 4]) }

theorem witness_ReturnOfTheHead :
    (issuedHead .read .window .win).issued = [issuedAs .read .window .win]
      ∧ (issuedAs .read .window .win).ends ≤ (issuedHead .read .window .win).mclk
      ∧ ({ issuedHead .read .window .win with protectEn := false } : State).protectEn = false := by decide +kernel

/-- A word whose check bits differ from the code of its data in the places of `e`. -/
theorem class_wrong_check_bits (e : BitVec 8) (he : e ≠ 0#8) (hw : weight e ≤ 2) :
    classWord Config.checkCode.code 0#64 (Config.checkCode.code 0#64 ^^^ e)
      = if weight e = 1 then (.corrected, 0#64) else (.uncorrectable, 0#64) := by
  have hx : Config.checkCode.code 0#64 ^^^ (Config.checkCode.code 0#64 ^^^ e) = e := by
    rw [← BitVec.xor_assoc, BitVec.xor_self, BitVec.zero_xor]
  have hn : wrongDataBit Config.checkCode.code 0#64 (Config.checkCode.code 0#64 ^^^ e) = none := by
    refine List.find?_eq_none.2 fun i hi hc => ?_
    have hi : i < 64 := List.mem_range.1 hi
    have one : ∀ j : Fin 64, oneBit 64 j ≠ 0#64 ∧ weight (oneBit 64 j) = 1 := by decide +kernel
    have hd := Config.checkCode.secDed (0#64 ^^^ oneBit 64 i) 0#64 (by
      rw [BitVec.zero_xor]
      exact (one ⟨i, hi⟩).1)
    rw [of_decide_eq_true hc, BitVec.xor_comm (_ ^^^ e), hx, BitVec.zero_xor, BitVec.xor_zero, (one ⟨i, hi⟩).2] at hd
    omega
  have hc : Config.checkCode.code 0#64 ≠ Config.checkCode.code 0#64 ^^^ e := fun h => he (by
    rw [← h, BitVec.xor_self] at hx
    exact hx.symm)
  simp only [classWord, hc, if_false, hn, hx]

theorem witness_ReturnOfTheHead_classes :
    (classWord Config.checkCode.code 0#64 (Config.checkCode.code 0#64 ^^^ 3#8)).1 = .uncorrectable
      ∧ (classWord Config.checkCode.code 0#64 (Config.checkCode.code 0#64 ^^^ 1#8)).1 = .corrected
      ∧ (classWord Config.checkCode.code 0#64 (Config.checkCode.code 0#64)).1 = .clean := by
  have h3 : (3#8 ≠ 0#8 ∧ weight 3#8 = 2) ∧ 1#8 ≠ 0#8 ∧ weight 1#8 = 1 := by decide
  refine ⟨?_, ?_, ?_⟩
  · rw [class_wrong_check_bits 3#8 h3.1.1 (by omega), if_neg (by omega)]
  · rw [class_wrong_check_bits 1#8 h3.2.1 (by omega), if_pos h3.2.2]
  · simp only [classWord, if_true]

theorem witness_ReturnDestinations :
    (issuedAs .read .window .win).buffer = .window ∧ (scrubHolds (.reading 0 true) none).scrub.record = .reading 0 true
      ∧ (scrubHolds .empty none).scrub.enable = true ∧ ((running 1).channels[0].runMode = some .live
        ∧ (running 1).channels[0].stopPoint = none)
      ∧ ((running 1).modChannel 0 fun ch => { ch with runMode := some .stopped, stopPoint := some 1 }).channels[0].stopPoint
        = some 1 ∧ (ch0In .off []).channels[0].state ≠ .run
      ∧ [1#32, 2, 3, 4][15 / 2 - 4 * (16 / 16 % 2)]? = some 4 := by decide +kernel

/-- CH0 with FILLED slots of the sequences 1, 2 and 3 and the slot of sequence 2 coming back. -/
def threeFilled : State :=
  (running 2).modChannel 0 fun ch =>
    { ch with
      returns := ((ch.returns.set 0 (.filled 1 .full 0 [])).set 1 (.reserved 2 .full 0)).set 2 (.filled 3 .full 0 []) }

/-- R123: an UNCORRECTABLE return frees its slot and the FILLED slots above the stop point, not those below. -/
theorem witness_ReturnDestinations_stop :
    let t := deliver { issuedAs .read (.returnSlot 0 1) (.ch 0) with sequence := 2 } .uncorrectable [] threeFilled
    t.channels[0].stopPoint = some 2 ∧ t.channels[0].returns[0] = .filled 1 .full 0 []
      ∧ t.channels[0].returns[1] = .free ∧ t.channels[0].returns[2] = .free := by decide +kernel

theorem witness_DataSent :
    (issuedHead .write (.wdb 0) .win).wdb[0] = some [1, 2, 3, 4] ∧ [1#32, 2, 3, 4].length = wordsOf .half
      ∧ (issuedHead .write (.wdb 0) .win).issued = [issuedAs .write (.wdb 0) .win]
      ∧ (withChannel 0 fun ch => { ch with formerSlot := some 1 }).channels[0].formerSlot = some 1
      ∧ (scrubHolds (.writing 0 []) none).scrub.record = .writing 0 [] := by decide +kernel

theorem witness_WordClassing : ∃ code : BitVec 64 → BitVec 8, SecDed code := ⟨sampleCode, sampleCode_secDed⟩

/-- The fault record with a first address. -/
def faulty : State := { State.reset with faults := { FaultRecord.reset with first := some (32, .win) } }

theorem witness_ClearFaultsAndRecord :
    inReset.pinHeld = false ∧ faulty.faults.first = some (32, .win) ∧ State.reset.faults.first = none := by decide

/-- R144, R147: a return's flag is raised on a record that is not empty, and CLEAR_FAULTS leaves it. -/
theorem witness_ClearFaultsAndRecord_flag :
    (recordClass .uncorrectable 64 .win faulty).flag .dataUncorrectable = true
      ∧ (recordClass .uncorrectable 64 .win faulty).faults.more = true
      ∧ (clearFaults (recordClass .corrected 64 .win faulty)).flag .dataCorrected = true
      ∧ (clearFaults (recordClass .corrected 64 .win faulty)).faults = FaultRecord.reset := by decide +kernel

/-- The scrub's interval over, its pointer at an address. -/
def scrubDue (pointer : Nat) : State :=
  (portIn .online).modScrub fun u => { u with enable := true, timer := some 0, pointer := pointer }

theorem witness_ScrubControl :
    Working (scrubDue 0) ∧ (scrubDue 0).scrub.timer = some 0
      ∧ (scrubDue 1073741792).scrub.pointer < (scrubDue 0).layers * 536870912
      ∧ (scrubDue 1073741824).layers * 536870912 ≤ (scrubDue 1073741824).scrub.pointer
      ∧ (scrubbing 0).scrub.offered ≠ none ∧ State.reset.scrub.enable = false := by decide +kernel

/-! ### The window, completions, flags, host writes -/

/-- The window at an address. -/
def windowAt (a : BitVec 30) : State := (portIn .online).modWindow fun w => { w with address := a }

theorem witness_WindowCommands :
    windowAddressBad (windowAt 0x3FFFFFF0) .full = true ∧ windowAddressBad (windowAt 0x3FFFFFF0) .half = false
      ∧ windowAddressBad { windowAt 0x1FFFFFF0 with layers := 1 } .half = false
      ∧ windowAddressBad { windowAt 0x20000000 with layers := 1 } .half = true
      ∧ (windowing .read).window.status = .busy ∧ stopping.port.stopPending = true ∧ inReset.transferReset = true := by
  decide +kernel

/-- CH2 waits with a record for a place. -/
def poster : State :=
  (queued 32 State.reset).modChannel 2 fun ch =>
    { ch with
      state := .postWait, current := some 1
      pendingRecord := some { slot := 1, channel := 2, result := .done, tag := 0, doneUnits := 0 } }

theorem witness_PopAndCoalescing :
    State.reset.cq.queue = [] ∧ (queued 1 State.reset).cq.queue.length = 1 ∧ (queued 2 State.reset).cq.queue.length = 2
      ∧ (∀ c : Fin 5, (queued 2 State.reset).channels[c].pendingRecord = none)
      ∧ (poster.channels[2].pendingRecord.isSome = true ∧ poster.channels[2].current = some 1
        ∧ ∀ d : Fin 5, d < 2 → poster.channels[d].pendingRecord = none)
      ∧ (State.reset.modCq fun u => { u with timer := some 0 }).cq.timer = some 0
      ∧ State.reset.flags.getLsbD 0 = false ∧ (queued 1 State.reset).flag .cqReady = true := by decide +kernel

theorem witness_FlagClearAndMaskWrite : State.reset.transferReset = false ∧ inReset.transferReset = true := by decide

/-- SLOT_SELECT at a slot with an owner, on a page. -/
def selected (o : Owner) (page : Bool) : State :=
  { withSlot { Slot.reset with owner := o } State.reset with slotSelect := 1, page := page }

theorem witness_DescriptorFieldWrite :
    Working (selected .host true) ∧ (selected .taken false).slots[(selected .taken false).slotSelect].owner ≠ .host
      ∧ (selected .host false).slots[(selected .host false).slotSelect].owner = .host ∧ (selected .host true).page = true
      ∧ (3#16).toNat % 8 = 3 ∧ 4 ≤ (7#16).toNat % 8 ∧ (63#16).toNat % 128 = (63 : Fin 64).val
      ∧ (64 ≤ (126#16).toNat % 128 ∧ (126#16).toNat % 128 < 127) ∧ (127#16).toNat % 128 = 127 := by decide +kernel

theorem witness_RegisterReads :
    pairedValue faulty .firstFault < 4294967296 ∧ faulty.faults.first = some (32, .win)
      ∧ (scrubHolds (.reading 32 true) none).scrub.record = .reading 32 true
      ∧ ({ State.reset with faults := { FaultRecord.reset with lastCorrected := some 32 } } : State).faults.lastCorrected
        = some 32
      ∧ (scrubHolds (.writing 32 []) none).scrub.record = .writing 32 [] ∧ PairedItem.firstFault ≠ .lastCorrected
      ∧ ((selected .host true).page = true ∧ (selected .host false).page = false)
      ∧ (queued 1 State.reset).cq.queue = records 1 ∧ ({ State.reset with layers := 1 } : State).fitted 1 = false := by
  decide +kernel

theorem witness_RegisterWriteItems :
    Working State.reset ∧ State.reset.port.state = .offline ∧ (portIn .online).port.state = .online
      ∧ (ch0In .idle []).channels[0].state ≠ .off ∧ (63#16).toNat ≤ 63 ∧ ¬ (64#16).toNat ≤ 63
      ∧ ¬ 1 ≤ (0#16).toNat := by decide +kernel

/-- Whether a register write at the reset state is taken, not refused. -/
def taken (index : BitVec 8) (v : Reg) : Bool := (writeRegister index v State.reset).refusal.code = .none

theorem witness_RegisterWriteItems_bounds :
    (taken 0x45#8 8#16 = true ∧ taken 0x45#8 9#16 = false ∧ taken 0x65#8 1#16 = true ∧ taken 0x65#8 0#16 = false)
      ∧ (taken 0x46#8 16384#16 = true ∧ taken 0x46#8 16385#16 = false ∧ taken 0x67#8 16384#16 = true
        ∧ taken 0x67#8 16385#16 = false ∧ taken 0x67#8 0#16 = true)
      ∧ (taken 0x7D#8 16#16 = true ∧ taken 0x7D#8 17#16 = false ∧ taken 0x7D#8 1#16 = true ∧ taken 0x7D#8 0#16 = false)
      ∧ (writeRegister 0x45#8 8#16 State.reset).channels[0].weight = 8
      ∧ (writeRegister 0x67#8 16384#16 State.reset).channels[4].boundsLimit = 16384
      ∧ (writeRegister 0x7D#8 16#16 State.reset).minWin = 16 := by decide +kernel

/-- R4: both ends of each kind of range. -/
theorem witness_RegisterWriteItems_params :
    (taken 0x80#8 0#16 = false ∧ taken 0x80#8 1#16 = true ∧ taken 0x8D#8 63#16 = true ∧ taken 0x8D#8 64#16 = false)
      ∧ (taken 0x87#8 3#16 = false ∧ taken 0x87#8 4#16 = true ∧ taken 0x88#8 63#16 = true ∧ taken 0x88#8 64#16 = false)
      ∧ (taken 0x8E#8 15#16 = false ∧ taken 0x8E#8 16#16 = true ∧ taken 0x94#8 1023#16 = true
        ∧ taken 0x94#8 1024#16 = false)
      ∧ (taken 0x8F#8 0#16 = true ∧ taken 0x8F#8 15#16 = true ∧ taken 0x8F#8 16#16 = false)
      ∧ (taken 0x90#8 3#16 = false ∧ taken 0x90#8 4#16 = true ∧ taken 0x91#8 31#16 = true ∧ taken 0x91#8 32#16 = false)
      ∧ (taken 0x92#8 15#16 = false ∧ taken 0x92#8 16#16 = true ∧ taken 0x92#8 4095#16 = true
        ∧ taken 0x92#8 4096#16 = false)
      ∧ (taken 0x93#8 0#16 = false ∧ taken 0x93#8 65535#16 = true)
      ∧ (writeRegister 0x94#8 1023#16 State.reset).param .xpt = 1023
      ∧ (writeRegister 0x88#8 4#16 State.reset).param .csf = 4 := by decide +kernel

/-- R2, R97: a write of LAYERS in OFFLINE is taken while a descriptor is RUNNING (log 28). -/
theorem test_layers_while_running :
    (writeLayers 1#16 (running 1)).layers = 1 ∧ (writeLayers 1#16 (running 1)).channels = (running 1).channels
      ∧ (running 1).slots[1].owner = .running := by decide +kernel

theorem witness_RegisterWriteOthers :
    Working State.reset ∧ State.reset.window.status ≠ .busy ∧ (windowing .read).window.status = .busy
      ∧ decodeCommand 0x3800#16 = some .start ∧ (0xE800#16).toNat / 2048 = 29 ∧ (0x8000#16).toNat / 2048 = 16
      ∧ (0x01FF#16).toNat % 64 = (63 : Fin 64).val := by decide +kernel

theorem witness_RefusedDuringTransferReset :
    inReset.pinHeld = false ∧ inReset.transferReset = true ∧ (4 : Fin 8).val < 5 ∧ hasOwnRow 0x77#8 = false
      ∧ 5 ≤ (5 : Fin 8).val ∧ (0x8000#16).toNat / 2048 = 16 ∧ (0x07FF#16).toNat / 2048 = 0 := by decide

theorem witness_TransferReset :
    Working (issuedHead .read .window .win) ∧ (issuedHead .read .window .win).issued ≠ []
      ∧ (inReset.transferReset = true ∧ inReset.issued = []) ∧ (windowing .read).window.offered.isSome = true
      ∧ (withSlot { goodSlot with owner := .taken } State.reset).slots[1].owner = .taken
      ∧ ((running 1).slots[1].owner = .running ∧ (running 1).slots[1].holder = some 0)
      ∧ ((readEntry 0).buffer = .returnSlot 0 0 ∧ (writeEntry 0).buffer = .wdb 0)
      ∧ ((issuedHead .read .window .win).modWindow fun w => { w with status := .busy }).window.status = .busy := by
  decide +kernel

theorem witness_Frames :
    (∃ t, exec (.submit 0 1) State.reset = .next t)
      ∧ ∃ t, exec .commandSlot State.reset = .next t ∧ t.port.state = State.reset.port.state :=
  ⟨⟨_, rfl⟩, _, rfl, by decide +kernel⟩

theorem witness_CommandWordRoundTrip :
    encodeCommand (.submit 7 63) = some 0x0F3F#16 ∧ decodeCommand 0x0F3F#16 = some (.submit 7 63)
      ∧ (7 : Fin 8).val = (0x0F3F#16).toNat / 256 % 8 ∧ (63 : Fin 64).val = (0x0F3F#16).toNat % 64
      ∧ (0x7080#16).getLsbD 7 = true ∧ (0x0F3F#16).getLsbD 7 = false := by decide

theorem witness_laws :
    DebtLaw State.reset ∧ BypassLaw (waiting [readEntry 0]) ∧ CapacityLaw State.reset ∧ ContentsLaw State.reset := by
  decide +kernel

theorem witness_ownerLaw : OwnerLaw State.reset ∧ WdbLaw State.reset := by decide +kernel

theorem witness_step : ∃ t, step State.reset = .next t := ⟨_, rfl⟩

end Sys2Proof.Tests
end

section
/-! SUPPORT. "X has passed since t" on cleared, shifted and joined times, and the earliest shut time (R3, R11). -/

namespace Sys2Proof.Machine

/-! ### The passing of a time -/

theorem passed_iff {now : Nat} {t : Option Nat} {x : Nat} : passed now t x = true ↔ ∀ u, t = some u → u + x ≤ now := by
  cases t with
  | none => simp [passed]
  | some u => simp [passed]

theorem passed_mono {now later : Nat} {t : Option Nat} {x : Nat} (h : passed now t x = true) (hle : now ≤ later) :
    passed later t x = true :=
  passed_iff.2 fun u hu => Nat.le_trans (passed_iff.1 h u hu) hle

theorem passed_after (now : Nat) (t : Option Nat) (x : Nat) : passed now (after t x) 0 = passed now t x := by
  cases t <;> rfl

/-- The later of two times has been reached exactly when both have. -/
theorem passed_laterOf (now : Nat) (t u : Option Nat) (x : Nat) :
    passed now (laterOf t u) x = (passed now t x && passed now u x) := by
  cases t with
  | none => rfl
  | some t =>
    cases u with
    | none => simp [laterOf, passed]
    | some u =>
      have both : max t u + x ≤ now ↔ t + x ≤ now ∧ u + x ≤ now := by omega
      simp [laterOf, passed, both]

theorem passed_earliestShut (now : Nat) (s : State) (b : Bank) :
    passed now (earliestShut s b) 0 =
      (passed now b.lastOpen (s.param .opm)
        && (passed now b.lastRead (s.param .r2s) && passed now b.writeEnd (s.param .wrs))) := by
  simp only [earliestShut, passed_laterOf, passed_after]

/-! ### A SHUT -/

/-- The conditions of R11 in the model's own terms. -/
theorem shutEligible_iff (s : State) (b : Fin 32) :
    shutEligible s b = true ↔
      s.banks[b].state = .openRow ∧ s.banks[b].autoShut = false ∧ passed s.mclk (earliestShut s s.banks[b]) 0 = true := by
  simp only [shutEligible, Bool.and_eq_true, decide_eq_true_eq, Bool.not_eq_true', and_assoc]

theorem issueShut_bank_other {s : State} {b d : Fin 32} (h : d ≠ b) : (issueShut b s).banks[d] = s.banks[d] := by
  have hv : b.val ≠ d.val := fun e => h (Fin.ext e.symm)
  simp [issueShut, hv]

/-- The eligibility of a SHUT reads the bank's own record, the parameters and the count, and no lapse of time undoes it. -/
theorem shutEligible_later {s t : State} {d : Fin 32} (bank : t.banks[d] = s.banks[d]) (params : t.params = s.params)
    (time : s.mclk ≤ t.mclk) (h : shutEligible s d = true) : shutEligible t d = true := by
  obtain ⟨isOpen, noAuto, reached⟩ := (shutEligible_iff s d).1 h
  have same : earliestShut t s.banks[d] = earliestShut s s.banks[d] := by simp only [earliestShut, State.param, params]
  rw [shutEligible_iff, bank, same]
  exact ⟨isOpen, noAuto, passed_mono reached time⟩

/-- Settles O7: the earliest shut time has been reached exactly when each time that takes part has, and a SHUT of another bank
leaves the bank's record as it is. -/
theorem shutEligibility : Obligations.ShutEligibility := by
  refine ⟨fun s b => ?_, fun s b d other h => ?_⟩
  · simp only [shutEligible_iff, passed_earliestShut, Bool.and_eq_true, passed_iff]
  · exact shutEligible_later (issueShut_bank_other other) rfl (Nat.le_succ s.mclk) h

end Sys2Proof.Machine
end

section
/-! SUPPORT. The conditions of an OPEN, and which classes of the scheduler propose one (R9, R46, R52, R56). -/

namespace Sys2Proof.Machine

/-! ### The conditions of an OPEN -/

theorem layerOfCluster_clusterOfBank (b : Fin 32) : layerOfCluster (clusterOfBank b) = layerOfBank b := by
  simp only [layerOfCluster, clusterOfBank, layerOfBank, Fin.mk.injEq]
  omega

theorem osfPassed_iff (s : State) (c : Fin 8) :
    osfPassed s c = true ↔
      ∀ d : Fin 8, d ≠ c → layerOfCluster d = layerOfCluster c →
        passed s.mclk s.clusters[d].lastOpen (s.param .osf) = true := by
  simp only [osfPassed, List.all_eq_true, Bool.or_eq_true, decide_eq_true_eq]
  constructor
  · intro h d other same
    rcases h d (List.mem_finRange d) with (self | elsewhere) | reached
    · exact absurd self other
    · exact absurd same elsewhere
    · exact reached
  · intro h d _
    by_cases self : d = c
    · exact .inl (.inl self)
    by_cases same : layerOfCluster d = layerOfCluster c
    · exact .inr (h d self same)
    · exact .inl (.inr same)

theorem windowAllows_iff (s : State) (l : Fin 2) :
    windowAllows s l = true ↔
      s.layerRecords[l].openWindow.length < 4
        ∨ passed s.mclk s.layerRecords[l].openWindow.head? (s.param .own) = true := by
  simp only [windowAllows, Bool.or_eq_true, decide_eq_true_eq]

theorem renewing_eq_false (s : State) (l : Fin 2) : renewing s l = false ↔ s.layerRecords[l].renewing = none := by
  simp only [renewing, Option.isSome_eq_false_iff, Option.isNone_iff_eq_none]

theorem openState_iff (s : State) :
    openState s = true ↔
      s.port.state = .online ∨ ((s.port.state = .parking ∨ s.port.state = .recalibrating) ∧ s.paq ≠ []) := by
  unfold openState
  split
  case h_1 online => simp [online]
  case h_2 parking => simp [parking]
  case h_3 recalibrating => simp [recalibrating]
  case h_4 notOnline notParking notRecalibrating =>
    refine iff_of_false Bool.false_ne_true ?_
    rintro (online | ⟨parking | recalibrating, _⟩)
    · exact notOnline online
    · exact notParking parking
    · exact notRecalibrating recalibrating

/-! ### Which class proposes what -/

theorem applied_eq_some {on : Bool} {c : Option Choice} {x : Choice} : applied on c = some x ↔ on = true ∧ c = some x := by
  cases on <;> simp [applied]

/-- A candidate of two sources in order of rank comes from one of them. -/
theorem or_cases {c d : Option Choice} {x : Choice} (h : c.or d = some x) : c = some x ∨ d = some x :=
  (Option.or_eq_some_iff.1 h).imp_right And.right

/-- Where the command of a slot comes from: a class that applies in the port's state, the PATTERN READ or the PARK (R48). -/
inductive Proposed (s : State) (x : Choice) : Prop
  | urgent (applies : (classes s).urgent = true) (candidate : class1 s = some x)
  | overdue (applies : (classes s).accesses = true) (candidate : class2 s = some x)
  | column (applies : (classes s).accesses = true) (candidate : class3 s = some x)
  | rowOpen (applies : (classes s).accesses = true) (candidate : class4 s = some x)
  | rowShut (applies : (classes s).accesses = true) (candidate : class5 s = some x)
  | idleShut (applies : (classes s).shuts = true) (candidate : class6 s = some x)
  | quietRenew (candidate : class7 s = some x)
  | pattern (applies : ((classes s).pattern && patternEligible s) = true) (is : x = .patternRead)
  | park (applies : ((classes s).park && parkEligible s) = true) (is : x = .park)

theorem choose_proposed {s : State} {x : Choice} (h : choose s = some x) : Proposed s x := by
  have fromClass {on : Bool} {c : Option Choice} (k : on = true → c = some x → Proposed s x) (h : applied on c = some x) :
      Proposed s x := (applied_eq_some.1 h).elim k
  rcases or_cases h with h | h
  · exact fromClass .urgent h
  rcases or_cases h with h | h
  · exact fromClass .overdue h
  rcases or_cases h with h | h
  · exact fromClass .column h
  rcases or_cases h with h | h
  · exact fromClass .rowOpen h
  rcases or_cases h with h | h
  · exact fromClass .rowShut h
  rcases or_cases h with h | h
  · exact fromClass .idleShut h
  rcases or_cases h with h | h
  · exact .quietRenew h
  rcases or_cases h with h | h
  · exact fromClass (fun on chosen => .pattern on (Option.some.inj chosen).symm) h
  · exact fromClass (fun on chosen => .park on (Option.some.inj chosen).symm) h

/-- Class 1 proposes SHUTs and RENEWs alone (R50). -/
theorem class1_some {s : State} {x : Choice} (h : class1 s = some x) : (∃ b, x = .shut b) ∨ ∃ l, x = .renew l := by
  have perLayer : ∀ l, urgentOf s l = some x → (∃ b, x = .shut b) ∨ ∃ l, x = .renew l := fun l hl => by
    unfold urgentOf at hl
    split at hl
    · split at hl
      · exact .inl ⟨_, (Option.some.inj hl).symm⟩
      · obtain ⟨_, proposed⟩ := Option.ite_none_right_eq_some.1 hl
        exact .inr ⟨l, (Option.some.inj proposed).symm⟩
    · cases hl
  rcases or_cases h with h | h
  · exact perLayer 0 h
  · exact perLayer 1 h

/-- An OPEN of class 2 is for the oldest overdue entry (R52). -/
theorem class2_openRow {s : State} {b : Fin 32} {row : Nat} (h : class2 s = some (.openRow b row)) :
    ∃ e ∈ s.paq, e.bank = b ∧ e.row = row := by
  obtain ⟨e, oldest, service⟩ := Option.bind_eq_some_iff.1 h
  refine ⟨e, List.mem_of_find?_eq_some oldest, ?_⟩
  simp only [overdueService] at service
  split at service
  case h_1 =>
    obtain ⟨_, proposed⟩ := Option.ite_none_right_eq_some.1 service
    exact Choice.openRow.inj (Option.some.inj proposed)
  case h_2 => split at service <;> split at service <;> cases service
  case h_3 => cases service
  case h_4 => cases service

/-- Class 3 proposes column commands alone (R54). -/
theorem class3_some {s : State} {x : Choice} (h : class3 s = some x) : ∃ e, x = .column e := by
  obtain ⟨e, _, rfl⟩ := Option.map_eq_some_iff.1 h
  exact ⟨e, rfl⟩

/-- An OPEN of class 4 is for a waiting access (R56). -/
theorem class4_openRow {s : State} {b : Fin 32} {row : Nat} (h : class4 s = some (.openRow b row)) :
    ∃ e ∈ s.paq, e.bank = b ∧ e.row = row := by
  obtain ⟨e, found, proposed⟩ := Option.map_eq_some_iff.1 h
  obtain ⟨bank, row⟩ := Choice.openRow.inj proposed
  exact ⟨e, List.mem_of_find?_eq_some found, bank, row⟩

/-- Class 5 proposes SHUTs alone (R57). -/
theorem class5_some {s : State} {x : Choice} (h : class5 s = some x) : ∃ b, x = .shut b := by
  obtain ⟨e, _, rfl⟩ := Option.map_eq_some_iff.1 h
  exact ⟨e.bank, rfl⟩

/-- Class 6 proposes SHUTs alone (R58). -/
theorem class6_some {s : State} {x : Choice} (h : class6 s = some x) : ∃ b, x = .shut b := by
  obtain ⟨b, _, rfl⟩ := Option.map_eq_some_iff.1 h
  exact ⟨b, rfl⟩

/-- Class 7 proposes RENEWs alone (R59). -/
theorem class7_some {s : State} {x : Choice} (h : class7 s = some x) : ∃ l, x = .renew l := by
  have perLayer : ∀ l, quietRenewOf s l = some x → ∃ l, x = .renew l := fun l hl => by
    obtain ⟨_, proposed⟩ := Option.ite_none_right_eq_some.1 hl
    exact ⟨l, (Option.some.inj proposed).symm⟩
  rcases or_cases h with h | h
  · exact perLayer 0 h
  · exact perLayer 1 h

/-- An OPEN comes from class 2 or class 4, the only classes that propose one: it is for a waiting access. -/
theorem choose_openRow {s : State} {b : Fin 32} {row : Nat} (h : choose s = some (.openRow b row)) :
    ∃ e ∈ s.paq, e.bank = b ∧ e.row = row := by
  cases choose_proposed h with
  | urgent _ c =>
    rcases class1_some c with ⟨_, shut⟩ | ⟨_, renew⟩
    · cases shut
    · cases renew
  | overdue _ c => exact class2_openRow c
  | column _ c =>
    obtain ⟨_, column⟩ := class3_some c
    cases column
  | rowOpen _ c => exact class4_openRow c
  | rowShut _ c =>
    obtain ⟨_, shut⟩ := class5_some c
    cases shut
  | idleShut _ c =>
    obtain ⟨_, shut⟩ := class6_some c
    cases shut
  | quietRenew c =>
    obtain ⟨_, renew⟩ := class7_some c
    cases renew
  | pattern _ is => cases is
  | park _ is => cases is

/-- Settles O8: each condition of the test is one of R9's, and an OPEN that the scheduler chooses is admissible and is for a
waiting access. -/
theorem openEligibility : Obligations.OpenEligibility := by
  refine ⟨fun s b => ?_, fun s b row h => ⟨choose_sound s _ h, choose_openRow h⟩⟩
  simp only [openEligible, Bool.and_eq_true, decide_eq_true_eq, Bool.not_eq_true', passed_iff, osfPassed_iff,
    layerOfCluster_clusterOfBank, windowAllows_iff, renewing_eq_false, openState_iff, and_assoc]

end Sys2Proof.Machine
end

section
/-! SUPPORT. The device reset at the pending access queue: the state it leaves, the three count registers, and no source to
serve while the memory port is out of service (R28, R45, 11.7). -/

namespace Sys2Proof.Machine

/-! ### What the device reset leaves -/

theorem exec_deviceReset_released {s : State} (h : s.pinHeld = false) : exec .deviceReset s = .next (deviceReset s) :=
  whenReleased_released deviceReset h

@[simp] theorem deviceReset_pinHeld (s : State) : (deviceReset s).pinHeld = false := rfl

@[simp] theorem deviceReset_paq (s : State) : (deviceReset s).paq = [] := rfl

@[simp] theorem deviceReset_issued (s : State) : (deviceReset s).issued = [] := rfl

@[simp] theorem deviceReset_wdb (s : State) : (deviceReset s).wdb = Vector.replicate 16 none := rfl

@[simp] theorem deviceReset_arbiter (s : State) : (deviceReset s).arbiter = Arbiter.reset := rfl

@[simp] theorem deviceReset_bypassCap (s : State) : (deviceReset s).bypassCap = 16 := rfl

@[simp] theorem deviceReset_dataBus (s : State) : (deviceReset s).dataBus = DataBus.reset := rfl

@[simp] theorem deviceReset_channels (s : State) : (deviceReset s).channels = Vector.replicate 5 Channel.reset := rfl

@[simp] theorem deviceReset_window (s : State) : (deviceReset s).window = Window.reset := rfl

@[simp] theorem deviceReset_scrub (s : State) : (deviceReset s).scrub = Scrub.reset := rfl

@[simp] theorem deviceReset_port (s : State) : (deviceReset s).port = MemPort.reset := rfl

/-! ### The count registers of the queue -/

/-- PAQ_COUNT (11.7). -/
theorem readRegister_paqCount {s : State} (h : s.pinHeld = false) : readRegister s 0x74#8 = reg s.paq.length := by
  simp [readRegister, readSingle, h]

/-- WDB_COUNT (11.7). -/
theorem readRegister_wdbCount {s : State} (h : s.pinHeld = false) :
    readRegister s 0x75#8 = reg (s.wdb.toList.filter fun w => w.isSome).length := by
  simp [readRegister, readSingle, h]

/-- OVERDUE_COUNT (11.7). -/
theorem readRegister_overdueCount {s : State} (h : s.pinHeld = false) :
    readRegister s 0x76#8 = reg (s.paq.filter fun e => e.overdue).length := by
  simp [readRegister, readSingle, h]

/-! ### No source to serve -/

/-- Admission is closed while the memory port is out of service (R28). -/
theorem nextSource_outOfService {s : State} (h : inService s = false) : nextSource s = none := by
  simp [nextSource, admissionOpen, h]

theorem inService_deviceReset (s : State) : inService (deviceReset s) = false := by
  simp [inService, MemPort.reset]

/-- Settles O4: the device reset leaves each part at its reset value, so the counts of an empty queue and of free buffers read
0, and the arbiter serves no source while the port is OFFLINE. -/
theorem deviceResetOfTheQueue : Obligations.DeviceResetOfTheQueue := by
  intro s released
  have free : ∀ i : Fin 16, (deviceReset s).wdb[i] = none := fun i => by simp
  have channelsOff : ∀ c : Fin 5, (deviceReset s).channels[c] = Channel.reset := fun c => by simp
  obtain ⟨turn, remaining, scrubWait⟩ : (deviceReset s).arbiter.turn = 0 ∧ (deviceReset s).arbiter.remaining = 2
      ∧ (deviceReset s).arbiter.scrubWait = 0 := by
    rw [deviceReset_arbiter]
    exact ⟨rfl, rfl, rfl⟩
  have offline : (deviceReset s).port.state = .offline := by rw [deviceReset_port, MemPort.reset]
  have paqCount : readRegister (deviceReset s) 0x74#8 = 0#16 := by
    rw [readRegister_paqCount (deviceReset_pinHeld s), deviceReset_paq]
    rfl
  have wdbCount : readRegister (deviceReset s) 0x75#8 = 0#16 := by
    rw [readRegister_wdbCount (deviceReset_pinHeld s), deviceReset_wdb]
    rfl
  have overdueCount : readRegister (deviceReset s) 0x76#8 = 0#16 := by
    rw [readRegister_overdueCount (deviceReset_pinHeld s), deviceReset_paq]
    rfl
  exact ⟨deviceReset s, exec_deviceReset_released released, deviceReset_paq s, deviceReset_issued s, free, paqCount, wdbCount,
    overdueCount, turn, remaining, scrubWait, deviceReset_bypassCap s, deviceReset_dataBus s, channelsOff,
    deviceReset_window s, deviceReset_scrub s, offline, nextSource_outOfService (inService_deviceReset s)⟩

end Sys2Proof.Machine
end

section
/-! SUPPORT. The renew controller at an expiry and at a RENEW: one layer's items after each, and after both in either order
(R73, R74, R75). -/

namespace Sys2Proof.Machine

/-! ### One layer's items -/

/-- The last row of R73: the debt and URGENT stay, the overrun note becomes yes. -/
theorem Renew.expire_of_eight {r : Renew} (period : Nat) (full : r.debt = 8) :
    r.expire period = { r with timer := some period, overrun := true } := if_pos full

/-- The other rows of R73: the debt rises, and at 5 the layer becomes URGENT. -/
theorem Renew.expire_of_ne_eight {r : Renew} (period : Nat) (room : r.debt ≠ 8) :
    r.expire period = { r with timer := some period, debt := r.debt + 1, urgent := r.urgent || r.debt = 5 } := if_neg room

/-- The expiry first, at a debt of 8: the overrun is noted, and the RENEW leaves 7. -/
theorem Renew.paid_expire_of_eight {r : Renew} (period : Nat) (full : r.debt = 8) :
    (r.expire period).paid =
      { r with timer := some period, debt := 7, count := r.count + 1, overrun := true } := by
  simp [Renew.expire_of_eight period full, Renew.paid, full]

/-- The expiry first, below 8: the RENEW finds the raised debt, so URGENT clears where the debt stood at 2. -/
theorem Renew.paid_expire_of_ne_eight {r : Renew} (period : Nat) (room : r.debt ≠ 8) :
    (r.expire period).paid =
      { r with timer := some period, count := r.count + 1, urgent := (r.urgent || r.debt = 5) && r.debt ≠ 2 } := by
  have meetsThree : r.debt + 1 = 3 ↔ r.debt = 2 := by omega
  simp [Renew.expire_of_ne_eight period room, Renew.paid, meetsThree]

/-- A RENEW leaves no lawful debt at 8: with it first there is no overrun. -/
theorem Renew.paid_debt_ne_eight {r : Renew} (bound : r.debt ≤ 8) : r.paid.debt ≠ 8 := by
  have lowered : r.paid.debt = r.debt - 1 := rfl
  omega

/-- The RENEW first: the expiry finds the lowered debt, which is not 8, and sets URGENT where it stood at 6. -/
theorem Renew.expire_paid {r : Renew} (period : Nat) (bound : r.debt ≤ 8) :
    r.paid.expire period =
      { r with timer := some period, count := r.count + 1, urgent := (r.urgent && r.debt ≠ 3) || r.debt = 6 } := by
  have meetsFive : r.debt - 1 = 5 ↔ r.debt = 6 := by omega
  rw [Renew.expire_of_ne_eight period (Renew.paid_debt_ne_eight bound)]
  simp [Renew.paid, meetsFive]

theorem Renew.paid_expire_debt (r : Renew) (period : Nat) :
    (r.expire period).paid.debt = if r.debt = 8 then 7 else r.debt := by
  split
  case isTrue full => rw [Renew.paid_expire_of_eight period full]
  case isFalse room => rw [Renew.paid_expire_of_ne_eight period room]

/-- An expiry does not touch the renew count. -/
theorem Renew.paid_expire_count (r : Renew) (period : Nat) : (r.expire period).paid.count = r.count + 1 := by
  by_cases full : r.debt = 8
  · rw [Renew.paid_expire_of_eight period full]
  · rw [Renew.paid_expire_of_ne_eight period full]

/-- R75 at a debt of 8: URGENT stays in either order. -/
theorem Renew.urgent_at_eight {r : Renew} (period : Nat) (full : r.debt = 8) (mark : r.urgent = true) :
    (r.expire period).paid.urgent = true ∧ (r.paid.expire period).urgent = true := by
  rw [Renew.paid_expire_of_eight period full, Renew.expire_paid period (by omega)]
  simp [full, mark]

/-- R75 at a debt of 5 without URGENT: the expiry sets it only if it comes first. -/
theorem Renew.urgent_at_five {r : Renew} (period : Nat) (five : r.debt = 5) (mark : r.urgent = false) :
    (r.expire period).paid.urgent = true ∧ (r.paid.expire period).urgent = false := by
  rw [Renew.paid_expire_of_ne_eight period (by omega), Renew.expire_paid period (by omega)]
  simp [five, mark]

/-- R75 at a debt of 3 with URGENT: the RENEW clears it only if it comes first. -/
theorem Renew.urgent_at_three {r : Renew} (period : Nat) (three : r.debt = 3) (mark : r.urgent = true) :
    (r.expire period).paid.urgent = true ∧ (r.paid.expire period).urgent = false := by
  rw [Renew.paid_expire_of_ne_eight period (by omega), Renew.expire_paid period (by omega)]
  simp [three, mark]

/-- R75: away from the three debts of its table the order does not matter to URGENT. At 6 the layer is URGENT already, and at 2
it cannot be. -/
theorem Renew.urgent_order {r : Renew} (period : Nat) (lawful : r.Lawful) (notFull : r.debt ≠ 8)
    (notRising : ¬ (r.debt = 5 ∧ r.urgent = false)) (notFalling : ¬ (r.debt = 3 ∧ r.urgent = true)) :
    (r.expire period).paid.urgent = (r.paid.expire period).urgent := by
  obtain ⟨_, bound, urgentFromSix, threeIfUrgent⟩ := lawful
  rw [Renew.paid_expire_of_ne_eight period notFull, Renew.expire_paid period bound]
  cases urgent : r.urgent with
  | true =>
    have aboveTwo : r.debt ≠ 2 := fun two => absurd (threeIfUrgent urgent) (by omega)
    have notThree : r.debt ≠ 3 := fun three => notFalling ⟨three, urgent⟩
    simp [aboveTwo, notThree]
  | false =>
    have notFive : r.debt ≠ 5 := fun five => notRising ⟨five, urgent⟩
    have notSix : r.debt ≠ 6 := fun six => absurd (urgentFromSix (by omega)) (by simp [urgent])
    simp [notFive, notSix]

/-! ### The expiry -/

theorem exec_renewTimerExpiry_released (l : Fin 2) {s : State} (h : s.pinHeld = false) :
    exec (.renewTimerExpiry l) s = .next (renewTimerExpired l s) :=
  whenReleased_released (renewTimerExpired l) h

theorem renewTimerExpired_of_eight {l : Fin 2} {s : State} (due : s.renews[l].timer = some 0) (full : s.renews[l].debt = 8) :
    renewTimerExpired l s = (s.modRenew l fun r => r.expire s.renewPeriod).raise .renewOverrun := by
  simp only [renewTimerExpired, due, full, if_true]

theorem renewTimerExpired_of_ne_eight {l : Fin 2} {s : State} (due : s.renews[l].timer = some 0)
    (room : s.renews[l].debt ≠ 8) : renewTimerExpired l s = s.modRenew l fun r => r.expire s.renewPeriod := by
  simp only [renewTimerExpired, due, room, if_true, if_false]

theorem modRenew_renew_self (l : Fin 2) (f : Renew → Renew) (s : State) : (s.modRenew l f).renews[l] = f s.renews[l] :=
  Vector.getElem_set_self l.isLt

/-- What an expiry that is due makes of its layer, overrun or not. -/
theorem renewTimerExpired_renew {l : Fin 2} {s : State} (due : s.renews[l].timer = some 0) :
    (renewTimerExpired l s).renews[l] = s.renews[l].expire s.renewPeriod := by
  by_cases full : s.renews[l].debt = 8
  · rw [renewTimerExpired_of_eight due full, raise_renews, modRenew_renew_self]
  · rw [renewTimerExpired_of_ne_eight due full, modRenew_renew_self]

/-- The next state of an expiry below 8, with the items R73 gives written in. -/
theorem exec_renewTimerExpiry_rises {l : Fin 2} {s : State} (released : s.pinHeld = false)
    (due : s.renews[l].timer = some 0) {debt : Int} {urgent : Bool} (room : s.renews[l].debt ≠ 8)
    (risen : s.renews[l].debt + 1 = debt) (mark : (s.renews[l].urgent || s.renews[l].debt = 5) = urgent) :
    exec (.renewTimerExpiry l) s = .next
      { s with
        renews := s.renews.set l
          { s.renews[l] with timer := some (s.param .ri * 16), debt := debt, urgent := urgent } } := by
  subst risen mark
  rw [exec_renewTimerExpiry_released l released, renewTimerExpired_of_ne_eight due room, State.modRenew,
    Renew.expire_of_ne_eight _ room, State.renewPeriod]

/-- CQ_READY, which joins the flags at its own level, takes nothing from a raised flag. -/
theorem flag_raise_renewOverrun (s : State) : (s.raise .renewOverrun).flag .renewOverrun = true := by
  simp [State.flag, State.flagView, State.raise, Flag.position, oneBit]

/-! ### The RENEW -/

theorem issue_renew_renew (l : Fin 2) (s : State) : (issue (.renew l) s).renews[l] = s.renews[l].paid :=
  modRenew_renew_self l Renew.paid (s.modLayer l _)

theorem issue_renew_flag (l : Fin 2) (f : Flag) (s : State) : (issue (.renew l) s).flag f = s.flag f := rfl

theorem issue_renew_flags (l : Fin 2) (s : State) : (issue (.renew l) s).flags = s.flags := rfl

theorem issue_renew_renewPeriod (l : Fin 2) (s : State) : (issue (.renew l) s).renewPeriod = s.renewPeriod := rfl

/-! ### Both, in either order (R75) -/

theorem issue_renew_renewTimerExpired {l : Fin 2} {s : State} (due : s.renews[l].timer = some 0) :
    (issue (.renew l) (renewTimerExpired l s)).renews[l] = (s.renews[l].expire s.renewPeriod).paid := by
  rw [issue_renew_renew, renewTimerExpired_renew due]

/-- A RENEW leaves the timer as it is: the expiry is still due after it. -/
theorem issue_renew_due {l : Fin 2} {s : State} (due : s.renews[l].timer = some 0) :
    (issue (.renew l) s).renews[l].timer = some 0 := by
  rw [issue_renew_renew, Renew.paid, due]

theorem renewTimerExpired_issue_renew {l : Fin 2} {s : State} (due : s.renews[l].timer = some 0) :
    (renewTimerExpired l (issue (.renew l) s)).renews[l] = s.renews[l].paid.expire s.renewPeriod := by
  rw [renewTimerExpired_renew (issue_renew_due due), issue_renew_renew, issue_renew_renewPeriod]

theorem renewTimerExpired_issue_renew_flags {l : Fin 2} {s : State} (due : s.renews[l].timer = some 0)
    (bound : s.renews[l].debt ≤ 8) : (renewTimerExpired l (issue (.renew l) s)).flags = s.flags := by
  have room : (issue (.renew l) s).renews[l].debt ≠ 8 := by
    rw [issue_renew_renew]
    exact Renew.paid_debt_ne_eight bound
  rw [renewTimerExpired_of_ne_eight (issue_renew_due due) room, modRenew_flags, issue_renew_flags]

/-- With the expiry first, a debt of 8 raises RENEW_OVERRUN, and the RENEW leaves it raised. -/
theorem issue_renew_renewTimerExpired_flag {l : Fin 2} {s : State} (due : s.renews[l].timer = some 0)
    (full : s.renews[l].debt = 8) : (issue (.renew l) (renewTimerExpired l s)).flag .renewOverrun = true := by
  rw [issue_renew_flag, renewTimerExpired_of_eight due full, flag_raise_renewOverrun]

/-- Settles O16: R73's table row by row, and R75 from the items of the layer after both in either order. -/
theorem renewTimerExpiry : Obligations.RenewTimerExpiry := by
  refine ⟨fun l s released due => ⟨fun low => ?_, fun five => ?_, fun high urgent => ?_, fun full urgent => ?_⟩,
    fun l s due lawful _ => ?_⟩
  · have notFive : s.renews[l].debt ≠ 5 := by omega
    exact exec_renewTimerExpiry_rises released due (by omega) rfl (by simp only [notFive, decide_false, Bool.or_false])
  · exact exec_renewTimerExpiry_rises released due (by omega) (by omega) (by simp only [five, decide_true, Bool.or_true])
  · exact exec_renewTimerExpiry_rises released due (by omega) rfl (by simp only [urgent, Bool.true_or])
  · rw [exec_renewTimerExpiry_released l released, renewTimerExpired_of_eight due full, State.modRenew,
      Renew.expire_of_eight _ full, ← full, ← urgent]
    rfl
  · intro first second
    have firstLayer : first.renews[l] = (s.renews[l].expire s.renewPeriod).paid := issue_renew_renewTimerExpired due
    have secondLayer : second.renews[l] = s.renews[l].paid.expire s.renewPeriod := renewTimerExpired_issue_renew due
    have ⟨_, bound, urgentFromSix, _⟩ := lawful
    have firstDebt : first.renews[l].debt = if s.renews[l].debt = 8 then 7 else s.renews[l].debt := by
      rw [firstLayer, Renew.paid_expire_debt]
    have secondDebt : second.renews[l].debt = s.renews[l].debt := by rw [secondLayer, Renew.expire_paid _ bound]
    have counts : first.renews[l].count = s.renews[l].count + 1 ∧ second.renews[l].count = s.renews[l].count + 1 := by
      rw [firstLayer, secondLayer, Renew.paid_expire_count, Renew.expire_paid _ bound]
      exact ⟨rfl, rfl⟩
    refine ⟨counts, firstDebt, secondDebt, fun full => ?_, fun five mark => ?_, fun three mark => ?_,
      fun notFull notRising notFalling => ⟨?_, ?_⟩⟩
    · have ⟨firstUrgent, secondUrgent⟩ := Renew.urgent_at_eight s.renewPeriod full (urgentFromSix (by omega))
      rw [firstLayer, secondLayer]
      refine ⟨issue_renew_renewTimerExpired_flag due full, ?_, firstUrgent,
        renewTimerExpired_issue_renew_flags due bound, ?_, secondUrgent⟩
      · rw [Renew.paid_expire_of_eight _ full]
      · rw [Renew.expire_paid _ bound]
    · rw [firstLayer, secondLayer]
      exact Renew.urgent_at_five _ five mark
    · rw [firstLayer, secondLayer]
      exact Renew.urgent_at_three _ three mark
    · rw [firstDebt, secondDebt, if_neg notFull]
    · rw [firstLayer, secondLayer]
      exact Renew.urgent_order _ lawful notFull notRising notFalling

end Sys2Proof.Machine
end

section
/-! SUPPORT. The tests of start validation, each in the words of R97 and R98, and what each of them decides. -/

namespace Sys2Proof.Machine

/-! ### Test 1: the operations a channel allows -/

/-- A channel with a stream port moves words in the port's direction. -/
theorem opAllowed_of_port {c : Fin 5} {p : Fin 4} (bound : p.val = c.val) (s : State) (op : Op) :
    opAllowed s c op = true ↔
      (op = .inbound ∧ s.ports[p].direction = .inward) ∨ (op = .outbound ∧ s.ports[p].direction = .outward) := by
  cases op <;> simp [opAllowed, portOfChannel_eq bound]

/-- CH4 has no stream port, and moves words within the stack. -/
theorem opAllowed_four (s : State) (op : Op) : opAllowed s 4 op = true ↔ op = .copy ∨ op = .fill := by
  have noPort : portOfChannel 4 = none := rfl
  cases op <;> simp [opAllowed, noPort]

theorem opAllowed_iff (s : State) (c : Fin 5) (op : Op) :
    opAllowed s c op = true ↔
      (∃ p : Fin 4, p.val = c.val ∧
        ((op = .inbound ∧ s.ports[p].direction = .inward) ∨ (op = .outbound ∧ s.ports[p].direction = .outward)))
        ∨ (c = 4 ∧ (op = .copy ∨ op = .fill)) := by
  constructor
  · intro allowed
    rcases Nat.lt_or_ge c.val 4 with port | noPort
    · exact .inl ⟨⟨c.val, port⟩, rfl, (opAllowed_of_port rfl s op).1 allowed⟩
    · obtain rfl : c = 4 := Fin.ext (show c.val = 4 by omega)
      exact .inr ⟨rfl, (opAllowed_four s op).1 allowed⟩
  · rintro (⟨p, bound, moves⟩ | ⟨rfl, moves⟩)
    · exact (opAllowed_of_port bound s op).2 moves
    · exact (opAllowed_four s op).2 moves

/-! ### Tests 4 and 5: ranges (R98) -/

theorem capacity_of_fitted {s : State} (fitted : s.layers = 1 ∨ s.layers = 2) :
    s.capacity = if s.layers = 1 then 536870912 else 1073741824 := by
  rcases fitted with one | two
  · simp [State.capacity, one]
  · simp [State.capacity, two]

theorem rangeInside_iff {s : State} (fitted : s.layers = 1 ∨ s.layers = 2) (c : Fin 5) (start length : Nat) :
    rangeInside s c start length = true ↔
      start + length ≤ (if s.layers = 1 then 536870912 else 1073741824)
        ∧ s.channels[c].boundsBase * 65536 ≤ start ∧ start + length ≤ s.channels[c].boundsLimit * 65536 := by
  simp only [rangeInside, capacity_of_fitted fitted, Bool.and_eq_true, decide_eq_true_eq, and_assoc]

/-- Each of two ranges that are not empty starts below the other's end exactly when the later start is a byte of both. -/
theorem rangesOverlap_iff {length : Nat} (nonempty : 0 < length) (a b : Nat) :
    rangesOverlap a b length = true ↔ ∃ x, a ≤ x ∧ x < a + length ∧ b ≤ x ∧ x < b + length := by
  simp only [rangesOverlap, Bool.and_eq_true, decide_eq_true_eq]
  constructor
  · rintro ⟨below, above⟩
    exact ⟨max a b, by omega⟩
  · rintro ⟨x, fromA, belowA, fromB, belowB⟩
    omega

theorem Slot.length_pos {d : Slot} (units : d.units.toNat ≠ 0) : 0 < d.length := by
  rw [Slot.length]
  omega

/-! ### The tests in order -/

/-- Test 3 of R97: the addresses that the operation uses are multiples of 16. -/
def Slot.Aligned (d : Slot) : Prop := d.addr.toNat % 16 = 0 ∧ (d.op = .copy → d.dest.toNat % 16 = 0)

/-- Test 4 of R97: the ranges that the operation uses are inside the capacity and the channel's bounds. -/
def Slot.Ranged (s : State) (c : Fin 5) (d : Slot) : Prop :=
  rangeInside s c d.addr.toNat d.length = true ∧ (d.op = .copy → rangeInside s c d.dest.toNat d.length = true)

/-- What test 5 of R97 rules out: the two ranges of a COPY overlap. -/
def Slot.Overlapping (d : Slot) : Prop := d.op = .copy ∧ rangesOverlap d.addr.toNat d.dest.toNat d.length = true

theorem Slot.overlapping_iff {d : Slot} (units : d.units.toNat ≠ 0) :
    d.Overlapping ↔ d.op = .copy ∧ ∃ x : Nat,
      d.addr.toNat ≤ x ∧ x < d.addr.toNat + d.length ∧ d.dest.toNat ≤ x ∧ x < d.dest.toNat + d.length := by
  rw [Slot.Overlapping, rangesOverlap_iff (Slot.length_pos units)]

open Classical in
/-- R97 as a cascade: the first failing test gives the result. -/
theorem validate_eq (s : State) (c : Fin 5) (d : Slot) :
    validate s c d =
      if ¬ opAllowed s c d.op = true then some .failedFormat
      else if d.units.toNat = 0 then some .failedFormat
      else if ¬ d.Aligned then some .failedFormat
      else if ¬ d.Ranged s c then some .failedRange
      else if d.Overlapping then some .failedOverlap
      else none := by
  have misaligned : (d.addr.toNat % 16 ≠ 0 || (d.op = .copy && d.dest.toNat % 16 ≠ 0)) = true ↔ ¬ d.Aligned := by
    rw [Slot.Aligned, Classical.not_and_iff_not_or_not, Classical.not_imp]
    simp
  have outside : (!(rangeInside s c d.addr.toNat d.length
      && (d.op ≠ .copy || rangeInside s c d.dest.toNat d.length))) = true ↔ ¬ d.Ranged s c := by
    rw [Slot.Ranged, Classical.not_and_iff_not_or_not, Classical.not_imp]
    simp
  have overlapping : (d.op = .copy && rangesOverlap d.addr.toNat d.dest.toNat d.length) = true ↔ d.Overlapping := by
    simp only [Slot.Overlapping, Bool.and_eq_true, decide_eq_true_eq]
  have forbidden : (!opAllowed s c d.op) = true ↔ ¬ opAllowed s c d.op = true := by
    rw [Bool.not_eq_true', Bool.not_eq_true]
  simp only [validate, forbidden, Nat.lt_one_iff, misaligned, outside, overlapping]

/-- Settles O27: each test of the model is the rule's own, and the first that fails gives the result. -/
theorem startValidation : Obligations.StartValidation := by
  intro c d s length allowed aligned inside ranged overlap fitted
  have allowedIff : allowed ↔ opAllowed s c d.op = true := (opAllowed_iff s c d.op).symm
  have alignedIff : aligned ↔ d.Aligned := Iff.rfl
  have rangedIff : ranged ↔ d.Ranged s c := and_congr (rangeInside_iff fitted c _ _).symm
    (imp_congr_right fun _ => (rangeInside_iff fitted c _ _).symm)
  rw [allowedIff, alignedIff, rangedIff, validate_eq]
  refine ⟨fun forbids => if_pos forbids, fun allows empty => ?_, fun allows units misaligned => ?_,
    fun allows units aligns outside => ?_, fun allows units aligns ranges overlaps => ?_,
    fun allows units aligns ranges apart => ?_⟩
  · simp [allows, empty]
  · simp [allows, units, misaligned]
  · simp [allows, units, aligns, outside]
  · have overlapping : d.Overlapping := (Slot.overlapping_iff units).2 overlaps
    simp [allows, units, aligns, ranges, overlapping]
  · have disjoint : ¬ d.Overlapping := mt (Slot.overlapping_iff units).1 apart
    simp [allows, units, aligns, ranges, disjoint]

end Sys2Proof.Machine
end

section
/-! SUPPORT. A channel's state after a run begins, and ENABLE, DISABLE, RESUME and SUBMIT at the channel they name
(R94, R96, R99, R108, R109). -/

namespace Sys2Proof.Machine

/-! ### The state of a channel after a run begins -/

/-- Choosing the next access leaves the channel's state. -/
theorem offerNext_channelState (c : Fin 5) (s : State) : (offerNext c s).channels[c].state = s.channels[c].state := by
  unfold offerNext
  split <;> simp

theorem setUpRun_channelState (c : Fin 5) (k : Fin 64) (s : State) : (setUpRun c k s).channels[c].state = .run := by
  simp [setUpRun]

theorem haltChannel_channelState (c : Fin 5) (s : State) : (haltChannel c s).channels[c].state = .halted := by
  simp [haltChannel]

/-- A record that waits for a place leaves its channel in POST_WAIT, unless a CANCEL ended the run (R122, R125). -/
theorem awaitPosting_channelState (c : Fin 5) (k : Fin 64) (s : State) :
    (awaitPosting c k s).channels[c].state = if s.channels[c].state = .cancelling then .cancelling else .postWait := by
  simp [awaitPosting]

theorem putOutcome_channels (c : Fin 5) (k : Fin 64) (r : Result) (s : State) :
    (putOutcome c k r s).channels = s.channels := rfl

/-- The three states a take can end in: a run, a failed validation, and a failed validation whose record waits. -/
theorem beginRun_channelState (c : Fin 5) (k : Fin 64) (s : State) :
    (beginRun c k s).channels[c].state = .run ∨ (beginRun c k s).channels[c].state = .halted
      ∨ (beginRun c k s).channels[c].state = .postWait := by
  unfold beginRun
  split
  · unfold writeOutcome
    split
    · split
      · exact .inr (.inl (haltChannel_channelState c _))
      · refine .inr (.inr ?_)
        rw [awaitPosting_channelState, putOutcome_channels, setUpRun_channelState]
        rfl
    · exact .inr (.inl (haltChannel_channelState c _))
  · exact .inl ((offerNext_channelState c _).trans (setUpRun_channelState c k s))

/-- A channel that takes a slot leaves IDLE (R107). -/
theorem beginRun_notIdle (c : Fin 5) (k : Fin 64) (s : State) : (beginRun c k s).channels[c].state ≠ .idle := by
  obtain run | halted | waiting := beginRun_channelState c k s
  · rw [run]; decide
  · rw [halted]; decide
  · rw [waiting]; decide

theorem takeNext_nil {c : Fin 5} {s : State} (empty : s.channels[c].queue = []) :
    takeNext c s = s.modChannel c fun ch => { ch with state := .idle } := by
  simp only [takeNext, empty]

theorem takeNext_cons {c : Fin 5} {k : Fin 64} {rest : List (Fin 64)} {s : State}
    (head : s.channels[c].queue = k :: rest) :
    takeNext c s = beginRun c k (s.modChannel c fun ch => { ch with queue := rest }) := by
  simp only [takeNext, head]

/-- No port changes where a channel comes to IDLE (R109). -/
theorem takeNext_ports (c : Fin 5) (s : State) : (takeNext c s).ports = s.ports := by
  obtain ⟨_, _, _, _, same⟩ := takeNext_runPart c s
  rw [same]

/-! ### The commands at the channel they name -/

/-- A command that names a channel acts at it while no reset is in progress. -/
theorem onChannel_named {n : Fin 8} {c : Fin 5} {s : State} (f : Fin 5 → State → State) (named : n.val = c.val)
    (working : Working s) : whenReleased (onChannel n f) s = .next (f c s) := by
  obtain ⟨released, free⟩ := working
  have inRange : n.val < 5 := named ▸ c.isLt
  have same : (⟨n.val, inRange⟩ : Fin 5) = c := Fin.ext named
  rw [whenReleased_released _ released, onChannel, unlessBusy_free _ _ free, dif_pos inRange, same]

theorem exec_enable_named {n : Fin 8} {c : Fin 5} {s : State} (named : n.val = c.val) (working : Working s) :
    exec (.enable n) s = .next (enableChannel c s) := onChannel_named enableChannel named working

theorem exec_disable_named {n : Fin 8} {c : Fin 5} {s : State} (named : n.val = c.val) (working : Working s) :
    exec (.disable n) s = .next (disableChannel c s) := onChannel_named disableChannel named working

theorem exec_resume_named {n : Fin 8} {c : Fin 5} {s : State} (named : n.val = c.val) (working : Working s) :
    exec (.resume n) s = .next (resumeChannel c s) := onChannel_named resumeChannel named working

theorem exec_submit_named {n : Fin 8} {c : Fin 5} {s : State} (k : Fin 64) (named : n.val = c.val)
    (released : s.pinHeld = false) : exec (.submit n k) s = .next (submitTo c k s) := by
  have inRange : n.val < 5 := named ▸ c.isLt
  have same : (⟨n.val, inRange⟩ : Fin 5) = c := Fin.ext named
  have atChannel : submit n k s = submitTo c k s := by rw [submit, dif_pos inRange, same]
  exact (whenReleased_released _ released).trans (congrArg _ atChannel)

/-- ENABLE and RESUME, each in its own state, are the channel's coming to IDLE (R108, R109). -/
theorem exec_enable_or_resume {n : Fin 8} {c : Fin 5} {s : State} {i : Instr} (named : n.val = c.val) (working : Working s)
    (own : (i = .enable n ∧ s.channels[c].state = .off) ∨ (i = .resume n ∧ s.channels[c].state = .halted)) :
    exec i s = .next (takeNext c s) := by
  obtain ⟨rfl, off⟩ | ⟨rfl, halted⟩ := own
  · rw [exec_enable_named named working, enableChannel, if_pos off]
  · rw [exec_resume_named named working, resumeChannel, if_pos halted]

/-- DISABLE is refused outside IDLE (R108). -/
theorem exec_disable_refused {n : Fin 8} {c : Fin 5} {s : State} (named : n.val = c.val) (working : Working s)
    (notIdle : s.channels[c].state ≠ .idle) : exec (.disable n) s = .next (s.refuse .channelState 0#8) := by
  rw [exec_disable_named named working, disableChannel, if_neg notIdle]
  rfl

/-- SUBMIT leaves the reset pin and the transfer reset. -/
theorem working_of_submit {n : Fin 8} {k : Fin 64} {s t : State} (working : Working s)
    (done : exec (.submit n k) s = .next t) : Working t := by
  obtain ⟨released, free⟩ := working
  have result : t = submit n k s := by
    have := done.symm.trans (whenReleased_released (submit n k) released)
    simpa using this
  obtain ⟨_, _, _, _, _, same⟩ := submit_hostPart n k s
  rw [result, same]
  exact ⟨released, free⟩

theorem appendSlot_queue (c : Fin 5) (k : Fin 64) (s : State) :
    (appendSlot c k s).channels[c].queue = s.channels[c].queue ++ [k] := by
  simp [appendSlot]

theorem appendSlot_channelState (c : Fin 5) (k : Fin 64) (s : State) :
    (appendSlot c k s).channels[c].state = s.channels[c].state := by
  simp [appendSlot]

theorem appendSlot_owner (c : Fin 5) (k : Fin 64) (s : State) : (appendSlot c k s).slots[k].owner = .taken := by
  simp [appendSlot]

/-- An accepted SUBMIT to a channel with an empty queue: the channel takes the slot in IDLE, else the slot waits (R94). -/
theorem submitTo_emptyQueue {c : Fin 5} {k : Fin 64} {s : State} (free : s.transferReset = false)
    (host : s.slots[k].owner = .host) (empty : s.channels[c].queue = []) :
    submitTo c k s = if s.channels[c].state = .idle then takeNext c (appendSlot c k s) else appendSlot c k s := by
  have room : ¬ 8 ≤ s.channels[c].queue.length := by rw [empty]; decide
  rw [submitTo, if_neg (by simp [free]), if_neg (not_not_intro host), if_neg room]

/-- A SUBMIT to a channel in IDLE takes it out of IDLE (R108). -/
theorem submitTo_idle_notIdle {c : Fin 5} {k : Fin 64} {s : State} (free : s.transferReset = false)
    (host : s.slots[k].owner = .host) (empty : s.channels[c].queue = []) (idle : s.channels[c].state = .idle) :
    (submitTo c k s).channels[c].state ≠ .idle := by
  have head : (appendSlot c k s).channels[c].queue = k :: [] := by rw [appendSlot_queue, empty, List.nil_append]
  rw [submitTo_emptyQueue free host empty, if_pos idle, takeNext_cons head]
  exact beginRun_notIdle c k _

/-- Settles O24: ENABLE and RESUME are the channel's coming to IDLE, and a SUBMIT in IDLE begins a run, which no outcome of
start validation leaves in IDLE. -/
theorem enableDisableResume : Obligations.EnableDisableResume := by
  intro n c s named working idled
  have ⟨released, free⟩ := working
  refine ⟨fun i own => ?_, fun notOff => ?_, fun notHalted => ?_, fun idle => ?_,
    exec_disable_refused named working, fun k t idle empty host done => ?_, fun k t off empty host done => ?_⟩
  · rw [exec_enable_or_resume named working own]
    refine ⟨fun empty => ?_, fun k rest head => ?_, takeNext c s, rfl, takeNext_ports c s⟩
    · rw [takeNext_nil empty]
      rfl
    · rw [takeNext_cons head]
      rfl
  · rw [exec_enable_named named working, enableChannel, if_neg notOff]
    rfl
  · rw [exec_resume_named named working, resumeChannel, if_neg notHalted]
    rfl
  · rw [exec_disable_named named working, disableChannel, if_pos idle]
    rfl
  · have after := working_of_submit working done
    obtain rfl : submitTo c k s = t := by simpa [exec_submit_named k named released] using done
    have notIdle := submitTo_idle_notIdle free host empty idle
    exact ⟨notIdle, exec_disable_refused named after notIdle⟩
  · obtain rfl : submitTo c k s = t := by simpa [exec_submit_named k named released] using done
    have waits : submitTo c k s = appendSlot c k s := by
      rw [submitTo_emptyQueue free host empty, if_neg (by rw [off]; decide)]
    rw [waits, appendSlot_channelState, appendSlot_queue, appendSlot_owner, empty]
    exact ⟨off, rfl, rfl⟩

end Sys2Proof.Machine
end

section
/-! SUPPORT. The fault record at a return and at CLEAR_FAULTS (R144, R146, R147). -/

namespace Sys2Proof.Machine

/-! ### The record at an UNCORRECTABLE return -/

/-- A later UNCORRECTABLE return leaves the first address and sets MORE (R146). -/
theorem FaultRecord.note_uncorrectable_later {r : FaultRecord} {f : Nat × Source} (burst : Nat) (src : Source)
    (first : r.first = some f) :
    r.note .uncorrectable burst src = { r with more := true, uncorrectable := min 255 (r.uncorrectable + 1) } := by
  simp [FaultRecord.note, first]

/-- The first UNCORRECTABLE return gives the record its address and leaves MORE (R146). -/
theorem FaultRecord.note_uncorrectable_first {r : FaultRecord} (burst : Nat) (src : Source) (first : r.first = none) :
    r.note .uncorrectable burst src =
      { r with first := some (burst, src), uncorrectable := min 255 (r.uncorrectable + 1) } := by
  simp [FaultRecord.note, first]

/-! ### The recording of a return's class -/

theorem recordClass_clean (burst : Nat) (src : Source) (s : State) : recordClass .clean burst src s = s := rfl

theorem recordClass_corrected (burst : Nat) (src : Source) (s : State) :
    recordClass .corrected burst src s =
      { s.raise .dataCorrected with faults := s.faults.note .corrected burst src } := rfl

theorem recordClass_uncorrectable (burst : Nat) (src : Source) (s : State) :
    recordClass .uncorrectable burst src s =
      { s.raise .dataUncorrectable with faults := s.faults.note .uncorrectable burst src } := rfl

@[simp] theorem recordClass_pinHeld (k : WordClass) (burst : Nat) (src : Source) (s : State) :
    (recordClass k burst src s).pinHeld = s.pinHeld := by
  cases k <;> rfl

@[simp] theorem recordClass_transferReset (k : WordClass) (burst : Nat) (src : Source) (s : State) :
    (recordClass k burst src s).transferReset = s.transferReset := by
  cases k <;> rfl

/-! ### CLEAR_FAULTS -/

theorem exec_clearFaults_released {s : State} (released : s.pinHeld = false) :
    exec .clearFaults s = .next (clearFaults s) := whenReleased_released clearFaults released

theorem exec_clearFaults_busy {s : State} (released : s.pinHeld = false) (busy : s.transferReset = true) :
    exec .clearFaults s = .next (s.refuse .resetBusy commandRegister) := by
  rw [exec_clearFaults_released released, clearFaults, unlessBusy_busy _ _ busy]

theorem exec_clearFaults_free {s : State} (released : s.pinHeld = false) (free : s.transferReset = false) :
    exec .clearFaults s = .next { s with faults := FaultRecord.reset } := by
  rw [exec_clearFaults_released released, clearFaults, unlessBusy_free _ _ free]

/-- A recording holds back neither the pin nor the RESET_BUSY test, so CLEAR_FAULTS after it empties the record (R147). -/
theorem exec_clearFaults_recordClass {s : State} (k : WordClass) (burst : Nat) (src : Source)
    (released : s.pinHeld = false) (free : s.transferReset = false) :
    exec .clearFaults (recordClass k burst src s) =
      .next { recordClass k burst src s with faults := FaultRecord.reset } :=
  exec_clearFaults_free (by rw [recordClass_pinHeld, released]) (by rw [recordClass_transferReset, free])

/-- Settles O43: CLEAR_FAULTS passes the pin's gate and the RESET_BUSY test in the same states before and after a recording, and
an UNCORRECTABLE recording turns on whether the record holds a first address, which the emptied one does not. -/
theorem clearFaultsAndRecord : Obligations.ClearFaultsAndRecord := by
  intro s burst src released empty cleared
  refine ⟨exec_clearFaults_busy released, exec_clearFaults_free released,
    fun free k => exec_clearFaults_recordClass k burst src released free, recordClass_clean burst src,
    fun free => ?correctedThenCleared, fun free => ?uncorrectableThenCleared, recordClass_clean burst src cleared,
    recordClass_corrected burst src cleared, ?clearedThenUncorrectable, recordClass_corrected burst src s,
    fun f first => ?later, fun first => ?first⟩
  case correctedThenCleared =>
    rw [exec_clearFaults_recordClass _ _ _ released free, recordClass_corrected]
    rfl
  case uncorrectableThenCleared =>
    rw [exec_clearFaults_recordClass _ _ _ released free, recordClass_uncorrectable]
    rfl
  case clearedThenUncorrectable =>
    have noFirst : cleared.faults.first = none := rfl
    rw [recordClass_uncorrectable, FaultRecord.note_uncorrectable_first burst src noFirst]
    rfl
  case later => rw [recordClass_uncorrectable, FaultRecord.note_uncorrectable_later burst src first]
  case first => rw [recordClass_uncorrectable, FaultRecord.note_uncorrectable_first burst src first]

end Sys2Proof.Machine
end

section
/-! SUPPORT. The tests of START in their order, and the START that passes them all (R156, R157). -/

namespace Sys2Proof.Machine

/-! ### The tests -/

/-- The port states in which the configuration stands open and a START may be taken (R156, R157). -/
theorem configOpen_iff (s : State) : configOpen s = true ↔ s.port.state = .offline ∨ s.port.state = .fault := by
  simp only [configOpen, Bool.or_eq_true, decide_eq_true_eq]

/-- The four consistency checks in the model's own terms (R157). -/
theorem timingConsistent_iff (s : State) :
    timingConsistent s = true ↔
      s.param .opm + s.param .sht ≤ s.param .orc ∧ s.param .a2c ≤ s.param .opm ∧ 4 * s.param .osf ≤ s.param .own
        ∧ 4 * s.param .rnw ≤ s.param .ri * 16 := by
  have period : s.param .ri * 16 = s.renewPeriod := rfl
  simp only [period, timingConsistent, Bool.and_eq_true, decide_eq_true_eq, and_assoc]

/-! ### One test after another -/

theorem start_busy {s : State} (busy : s.transferReset = true) : start s = s.refuse .resetBusy commandRegister :=
  unlessBusy_busy _ _ busy

/-- Past the RESET_BUSY test, the port state is tested before the timing. -/
theorem start_free {s : State} (free : s.transferReset = false) :
    start s =
      if configOpen s = true then
        if timingConsistent s = true then
          s.modMemPort fun m => { m with state := .starting, settle := some (s.param .settle * 256) }
        else s.refuse .timingInvalid commandRegister
      else s.refuse .portState commandRegister := by
  rw [start, unlessBusy_free _ _ free]
  cases configOpen s with
  | false => rfl
  | true => cases timingConsistent s <;> rfl

theorem start_wrongState {s : State} (free : s.transferReset = false) (closed : ¬ configOpen s = true) :
    start s = s.refuse .portState commandRegister := by
  rw [start_free free, if_neg closed]

theorem start_inconsistent {s : State} (free : s.transferReset = false) (opened : configOpen s = true)
    (inconsistent : ¬ timingConsistent s = true) : start s = s.refuse .timingInvalid commandRegister := by
  rw [start_free free, if_pos opened, if_neg inconsistent]

theorem start_taken {s : State} (free : s.transferReset = false) (opened : configOpen s = true)
    (consistent : timingConsistent s = true) :
    start s = s.modMemPort fun m => { m with state := .starting, settle := some (s.param .settle * 256) } := by
  rw [start_free free, if_pos opened, if_pos consistent]

/-! ### The command -/

theorem exec_start_released {s : State} (released : s.pinHeld = false) : exec .start s = .next (start s) :=
  whenReleased_released start released

/-- Settles O17: with the reset pin released the command is `start`, and each clause is one outcome of its chain of tests, which
the model states as the rule does. -/
theorem startCommand : Obligations.StartCommand := by
  intro s released
  rw [exec_start_released released, ← configOpen_iff, ← timingConsistent_iff]
  refine ⟨fun busy => ?resetBusy, fun free notOffline notFault => ?portState, fun free opened inconsistent => ?timing,
    fun free opened reopening openFirst window renews => ?taken⟩
  case resetBusy => exact congrArg _ (start_busy busy)
  case portState =>
    have closed : ¬ configOpen s = true := by simp only [configOpen_iff, notOffline, notFault, or_self, not_false_eq_true]
    exact congrArg _ (start_wrongState free closed)
  case timing => exact congrArg _ (start_inconsistent free opened inconsistent)
  case taken =>
    have consistent := (timingConsistent_iff s).2 ⟨reopening, openFirst, window, renews⟩
    exact congrArg _ (start_taken free opened consistent)

end Sys2Proof.Machine
end

section
/-! SUPPORT. One record of a table after a write to the same and to another record, and the one operation that each command
is while the reset pin is released. -/

namespace Sys2Proof.Machine

/-! ### Tables -/

theorem getElem_set_fin {α : Type} {n : Nat} (v : Vector α n) (i j : Fin n) (x : α) :
    (v.set i x)[j] = if i = j then x else v[j] := by
  simp only [Fin.getElem_fin, Vector.getElem_set, Fin.ext_iff]

theorem getElem_mapVector {α β : Type} {n : Nat} (v : Vector α n) (f : α → β) (i : Fin n) :
    (mapVector v f)[i] = f v[i] := by
  simp [mapVector]

theorem getElem_ofFn_fin {α : Type} {n : Nat} (f : Fin n → α) (i : Fin n) : (Vector.ofFn f)[i] = f i := by
  simp

/-- Two tables with the same record at every index are one. -/
theorem vector_ext_fin {α : Type} {n : Nat} {v w : Vector α n} (h : ∀ i : Fin n, v[i] = w[i]) : v = w :=
  Vector.ext fun i hi => h ⟨i, hi⟩

theorem modSlot_slot (s : State) (k j : Fin 64) (f : Slot → Slot) :
    (s.modSlot k f).slots[j] = if k = j then f s.slots[k] else s.slots[j] := getElem_set_fin _ k j _

theorem modChannel_channel (s : State) (c d : Fin 5) (f : Channel → Channel) :
    (s.modChannel c f).channels[d] = if c = d then f s.channels[c] else s.channels[d] := getElem_set_fin _ c d _

theorem modRenew_renew (s : State) (l m : Fin 2) (f : Renew → Renew) :
    (s.modRenew l f).renews[m] = if l = m then f s.renews[l] else s.renews[m] := getElem_set_fin _ l m _

theorem modPort_port_record (s : State) (p q : Fin 4) (f : StreamPort → StreamPort) :
    (s.modPort p f).ports[q] = if p = q then f s.ports[p] else s.ports[q] := getElem_set_fin _ p q _

theorem modLayer_layer (s : State) (l m : Fin 2) (f : LayerRecord → LayerRecord) :
    (s.modLayer l f).layerRecords[m] = if l = m then f s.layerRecords[l] else s.layerRecords[m] := getElem_set_fin _ l m _

theorem modBank_bank (s : State) (b d : Fin 32) (f : Bank → Bank) :
    (s.modBank b f).banks[d] = if b = d then f s.banks[b] else s.banks[d] := getElem_set_fin _ b d _

theorem modChannel_self (s : State) (c : Fin 5) (f : Channel → Channel) :
    (s.modChannel c f).channels[c] = f s.channels[c] := by
  rw [modChannel_channel, if_pos rfl]

theorem modSlot_self (s : State) (k : Fin 64) (f : Slot → Slot) : (s.modSlot k f).slots[k] = f s.slots[k] := by
  rw [modSlot_slot, if_pos rfl]

/-! ### The operation of a command -/

/-- What a command does while the reset pin is released. -/
def operation : Instr → State → State
  | .submit n k => submit n k
  | .enable n => onChannel n enableChannel
  | .disable n => onChannel n disableChannel
  | .cancel n => onChannel n cancelChannel
  | .resume n => onChannel n resumeChannel
  | .flush n => flush n
  | .start => start
  | .recal => recal
  | .stop => stop
  | .park => park
  | .unpark => unpark
  | .clearFaults => clearFaults
  | .pop => pop
  | .windowRead z => windowCommand .read z
  | .windowWrite z => windowCommand .write z
  | .transferReset => transferReset
  | .deviceReset => deviceReset
  | .resetPin => pinAsserted
  | .flagClear r v => clearFlags r v
  | .maskWrite r v => writeMask r v
  | .descriptorFieldWrite f v => writeField f v
  | .portDirectionWrite p v => writeDirection p v
  | .portEnableWrite p v => writeEnable p v
  | .layersWrite v => writeLayers v
  | .scrubEnWrite v => writeScrubEn v
  | .pairedLowRead item => readPaired item
  | .registerWrite index v => writeRegister index v
  | .portArrival p w m => strobeWith p w m
  | .portTake p => strobe p
  | .wordPlacement p => placeWord p
  | .admission => admitNext
  | .commandSlot => commandSlot
  | .a2cExpiry b => a2cExpired b
  | .shtExpiry b => shtExpired b
  | .autoShut b => autoShutTaken b
  | .idleTimerExpiry b => idleExpired b
  | .renewingTimerExpiry l => renewingExpired l
  | .renewTimerExpiry l => renewTimerExpired l
  | .settleExpiry => settleExpired
  | .patternReadDataEnd b => patternDataEnded b
  | .recalSweepStart => recalSweepStarted
  | .stopComplete => stopCompleted
  | .xptExpiry => xptExpired
  | .holdoffExpiry => holdoffExpired
  | .scrubIntervalExpiry => scrubIntervalExpired
  | .ret flips => takeReturn flips
  | .dataSent => takeSent
  | .transferResetEnd => endTransferReset
  | .resetPinRelease => id

/-- Every command but the release of the pin is its operation behind the pin's gate. -/
theorem exec_eq_whenReleased {i : Instr} (h : i ≠ .resetPinRelease) (s : State) :
    exec i s = whenReleased (operation i) s := by
  cases i
  case resetPinRelease => exact absurd rfl h
  all_goals rfl

theorem exec_released (i : Instr) {s : State} (h : s.pinHeld = false) : exec i s = .next (operation i s) := by
  by_cases release : i = .resetPinRelease
  · subst release
    simp [exec, execResetPinRelease, operation, h]
  · rw [exec_eq_whenReleased release, whenReleased_released _ h]

theorem exec_held {i : Instr} {s : State} (h : s.pinHeld = true) (notRelease : i ≠ .resetPinRelease) :
    exec i s = .next s := by
  rw [exec_eq_whenReleased notRelease, whenReleased_held _ h]

theorem exec_release_held {s : State} (h : s.pinHeld = true) :
    exec .resetPinRelease s = .next { s with pinHeld := false } := by
  simp [exec, execResetPinRelease, h]

/-- All that a command can come to: nothing, the release of the pin, or its operation. -/
theorem exec_cases {i : Instr} {s t : State} (h : exec i s = .next t) :
    t = s ∨ t = { s with pinHeld := false } ∨ t = operation i s := by
  cases held : s.pinHeld with
  | false =>
    rw [exec_released i held] at h
    cases h
    exact .inr (.inr rfl)
  | true =>
    by_cases release : i = .resetPinRelease
    · rw [release, exec_release_held held] at h
      cases h
      exact .inr (.inl rfl)
    · rw [exec_held held release] at h
      cases h
      exact .inl rfl

/-- A property that holds whatever waits in the queue and whether the pin is held, and that the passing of an mclk and every
operation keep, is kept by every step. -/
theorem step_keeps {P : State → Prop} (queue : ∀ s q, P s → P { s with pending := q })
    (release : ∀ s, P s → P { s with pinHeld := false }) (ticks : ∀ s, P s → P (tick s))
    (acts : ∀ i s, P s → P (operation i s)) {s t : State} (hs : P s) (h : step s = .next t) : P t := by
  have commands : ∀ i u, P u → exec i u = .next t → P t := fun i u hu done => by
    obtain rfl | rfl | rfl := exec_cases done
    · exact hu
    · exact release u hu
    · exact acts i u hu
  unfold step at h
  split at h
  · unfold idleStep at h
    split at h
    · exact commands _ s hs h
    · cases h
      exact ticks s hs
  · exact commands _ _ (queue s _ hs) h

end Sys2Proof.Machine
end

section
/-! SUPPORT. The operations that no law of the model can notice, and the few others: each invariant is then a matter of those
(R7, R25, R35, R40, R74, R91, R94, R131, R167). -/

namespace Sys2Proof.Machine

/-- What the five laws read of a state. -/
def lawView (s : State) :=
  (s.paq, s.nextEntry, s.wdb, s.issued, s.stack.contents, s.layerRecords, s.slots, s.channels, s.cq.queue, s.ports,
    s.renews, s.bypassCap)

/-- No law can tell `t` from `s` to its harm: the waiting and issued accesses, the owners and the queues stay, and what may change
keeps its own bound. -/
structure Quiet (s t : State) : Prop where
  paq : t.paq = s.paq
  nextEntry : t.nextEntry = s.nextEntry
  wdb : t.wdb = s.wdb
  issued : t.issued = s.issued
  contents : ContentsLaw s → ContentsLaw t
  openWindow : ∀ l : Fin 2, t.layerRecords[l].openWindow.length ≤ s.layerRecords[l].openWindow.length
  slot : ∀ k : Fin 64, t.slots[k].owner = s.slots[k].owner ∧ t.slots[k].holder = s.slots[k].holder
  channel : ∀ c : Fin 5, t.channels[c].queue = s.channels[c].queue ∧ t.channels[c].current = s.channels[c].current
    ∧ t.channels[c].state.isBusy = s.channels[c].state.isBusy
  cq : t.cq.queue = s.cq.queue
  fifo : ∀ p : Fin 4, t.ports[p].fifo.length ≤ s.ports[p].fifo.length
  debt : ∀ l : Fin 2, Renew.Lawful s.renews[l] → Renew.Lawful t.renews[l]
  cap : 1 ≤ s.bypassCap ∧ s.bypassCap ≤ 63 → 1 ≤ t.bypassCap ∧ t.bypassCap ≤ 63

/-! ### Quiet updates -/

theorem Quiet.of_view {s t : State} (h : lawView t = lawView s) : Quiet s t := by
  simp only [lawView, Prod.mk.injEq] at h
  obtain ⟨paq, nextEntry, wdb, issued, contents, layers, slots, channels, cq, ports, renews, cap⟩ := h
  exact
    { paq, nextEntry, wdb, issued, cq
      contents := fun law => by rw [ContentsLaw, contents]; exact law
      openWindow := fun l => Nat.le_of_eq (by rw [layers])
      slot := fun k => by rw [slots]; exact ⟨rfl, rfl⟩
      channel := fun c => by rw [channels]; exact ⟨rfl, rfl, rfl⟩
      fifo := fun p => Nat.le_of_eq (by rw [ports])
      debt := fun l law => by rw [renews]; exact law
      cap := fun law => by rw [cap]; exact law }

theorem Quiet.rfl {s : State} : Quiet s s := .of_view (Eq.refl _)

theorem Quiet.trans {s t u : State} (h : Quiet s t) (k : Quiet t u) : Quiet s u where
  paq := k.paq.trans h.paq
  nextEntry := k.nextEntry.trans h.nextEntry
  wdb := k.wdb.trans h.wdb
  issued := k.issued.trans h.issued
  contents law := k.contents (h.contents law)
  openWindow l := Nat.le_trans (k.openWindow l) (h.openWindow l)
  slot j := ⟨(k.slot j).1.trans (h.slot j).1, (k.slot j).2.trans (h.slot j).2⟩
  channel c :=
    have ⟨queue, current, busy⟩ := h.channel c
    have ⟨queue', current', busy'⟩ := k.channel c
    ⟨queue'.trans queue, current'.trans current, busy'.trans busy⟩
  cq := k.cq.trans h.cq
  fifo p := Nat.le_trans (k.fifo p) (h.fifo p)
  debt l law := k.debt l (h.debt l law)
  cap law := k.cap (h.cap law)

theorem Quiet.modChannel {s : State} (c : Fin 5) (f : Channel → Channel)
    (queue : (f s.channels[c]).queue = s.channels[c].queue) (current : (f s.channels[c]).current = s.channels[c].current)
    (busy : (f s.channels[c]).state.isBusy = s.channels[c].state.isBusy) : Quiet s (s.modChannel c f) :=
  { Quiet.of_view (t := s) (Eq.refl _) with
    channel := fun d => by
      rw [modChannel_channel]
      split
      case isTrue same => exact same ▸ ⟨queue, current, busy⟩
      case isFalse => exact ⟨Eq.refl _, Eq.refl _, Eq.refl _⟩ }

theorem Quiet.mapChannels {s : State} (f : Channel → Channel)
    (keeps : ∀ ch, (f ch).queue = ch.queue ∧ (f ch).current = ch.current ∧ (f ch).state.isBusy = ch.state.isBusy) :
    Quiet s { s with channels := mapVector s.channels f } :=
  { Quiet.of_view (t := s) (Eq.refl _) with
    channel := fun c => by rw [getElem_mapVector]; exact keeps _ }

theorem Quiet.modSlot {s : State} (k : Fin 64) (f : Slot → Slot) (owner : (f s.slots[k]).owner = s.slots[k].owner)
    (holder : (f s.slots[k]).holder = s.slots[k].holder) : Quiet s (s.modSlot k f) :=
  { Quiet.of_view (t := s) (Eq.refl _) with
    slot := fun j => by
      rw [modSlot_slot]
      split
      case isTrue same => exact same ▸ ⟨owner, holder⟩
      case isFalse => exact ⟨Eq.refl _, Eq.refl _⟩ }

theorem Quiet.modPort {s : State} (p : Fin 4) (f : StreamPort → StreamPort)
    (fifo : (f s.ports[p]).fifo.length ≤ s.ports[p].fifo.length) : Quiet s (s.modPort p f) :=
  { Quiet.of_view (t := s) (Eq.refl _) with
    fifo := fun q => by
      rw [modPort_port_record]
      split
      case isTrue same => exact same ▸ fifo
      case isFalse => exact Nat.le_refl _ }

theorem Quiet.renewed {s : State} (r : Vector Renew 2) (lawful : ∀ l : Fin 2, Renew.Lawful s.renews[l] → Renew.Lawful r[l]) :
    Quiet s { s with renews := r } :=
  { Quiet.of_view (t := s) (Eq.refl _) with debt := lawful }

theorem Quiet.modRenew {s : State} (l : Fin 2) (f : Renew → Renew)
    (lawful : Renew.Lawful s.renews[l] → Renew.Lawful (f s.renews[l])) : Quiet s (s.modRenew l f) :=
  .renewed _ fun m law => by
    rw [getElem_set_fin]
    split
    case isTrue same => exact lawful (same ▸ law)
    case isFalse => exact law

theorem Quiet.modLayer {s : State} (l : Fin 2) (f : LayerRecord → LayerRecord)
    (short : (f s.layerRecords[l]).openWindow.length ≤ s.layerRecords[l].openWindow.length) : Quiet s (s.modLayer l f) :=
  { Quiet.of_view (t := s) (Eq.refl _) with
    openWindow := fun m => by
      rw [modLayer_layer]
      split
      case isTrue same => exact same ▸ short
      case isFalse => exact Nat.le_refl _ }

theorem Quiet.raise {s : State} (f : Flag) : Quiet s (s.raise f) := .of_view (Eq.refl _)

theorem Quiet.refuse {s : State} (code : RefusalCode) (x : BitVec 8) : Quiet s (s.refuse code x) := .of_view (Eq.refl _)

theorem Quiet.modScrub {s : State} (f : Scrub → Scrub) : Quiet s (s.modScrub f) := .of_view (Eq.refl _)

theorem Quiet.modArbiter {s : State} (f : Arbiter → Arbiter) : Quiet s (s.modArbiter f) := .of_view (Eq.refl _)

theorem Quiet.modWindow {s : State} (f : Window → Window) : Quiet s (s.modWindow f) := .of_view (Eq.refl _)

theorem Quiet.modMemPort {s : State} (f : MemPort → MemPort) : Quiet s (s.modMemPort f) := .of_view (Eq.refl _)

theorem Quiet.modBank {s : State} (b : Fin 32) (f : Bank → Bank) : Quiet s (s.modBank b f) := .of_view (Eq.refl _)

theorem Quiet.modCq {s : State} (f : CompletionUnit → CompletionUnit) (queue : (f s.cq).queue = s.cq.queue) :
    Quiet s (s.modCq f) :=
  { Quiet.of_view (t := s) (Eq.refl _) with cq := queue }

theorem Quiet.loseContents {s : State} : Quiet s s.loseContents :=
  { Quiet.of_view (t := s) (Eq.refl _) with contents := fun _ => Eq.refl _ }

theorem Quiet.bypassCap {s : State} (n : Nat) (low : 1 ≤ n) (high : n ≤ 63) : Quiet s { s with bypassCap := n } :=
  { Quiet.of_view (t := s) (Eq.refl _) with cap := fun _ => ⟨low, high⟩ }

/-- A choice between two quiet outcomes. -/
theorem Quiet.ite {s t u : State} {c : Prop} [Decidable c] (h : c → Quiet s t) (k : ¬ c → Quiet s u) :
    Quiet s (if c then t else u) := by
  split
  · exact h ‹_›
  · exact k ‹_›

theorem unlessBusy_quiet {x : BitVec 8} {f : State → State} {s : State} (hf : Quiet s (f s)) :
    Quiet s (s.unlessBusy x f) :=
  .ite (fun _ => .refuse _ _) fun _ => hf

/-! ### Time, banks and layers -/

theorem Renew.Lawful.of_same {r u : Renew} (h : r.Lawful) (debt : u.debt = r.debt) (urgent : u.urgent = r.urgent) :
    u.Lawful := by
  rw [Renew.Lawful, debt, urgent]
  exact h

theorem tick_quiet (s : State) : Quiet s (tick s) := by
  unfold tick
  refine .ite (fun _ => .rfl) fun _ => ?_
  exact
    { Quiet.of_view (t := s) (Eq.refl _) with
      openWindow := fun l => Nat.le_of_eq (by rw [getElem_mapVector])
      debt := fun l law => by
        rw [getElem_mapVector]
        exact law.of_same (Eq.refl _) (Eq.refl _) }

/-- Where the layer records keep their window lists, the transitions of banks and layers are quiet. -/
theorem BankPart.quiet {s t : State} (h : BankPart s t)
    (openWindow : ∀ l : Fin 2, t.layerRecords[l].openWindow = s.layerRecords[l].openWindow) : Quiet s t := by
  obtain ⟨banks, layers, rfl⟩ := h
  exact { Quiet.of_view (t := s) (Eq.refl _) with openWindow := fun l => Nat.le_of_eq (congrArg List.length (openWindow l)) }

theorem settleBanks_quiet (s : State) : Quiet s (settleBanks s) :=
  (settleBanks_bankPart s).quiet fun l => by
    rw [settleBanks_layer]
    split <;> rfl

theorem renewingExpired_quiet (l : Fin 2) (s : State) : Quiet s (renewingExpired l s) :=
  (renewingExpired_bankPart l s).quiet fun m => renewingExpired_openWindow l m s

/-! ### The renew controller -/

/-- An expiry keeps the law of the debt: it stops at 8, and URGENT comes before 6 (R73, R74). -/
theorem Renew.Lawful.expire {r : Renew} (period : Nat) (h : r.Lawful) : (r.expire period).Lawful := by
  obtain ⟨low, high, urgentFromSix, threeIfUrgent⟩ := h
  by_cases full : r.debt = 8
  · rw [Renew.expire_of_eight period full]
    exact ⟨low, high, urgentFromSix, threeIfUrgent⟩
  · rw [Renew.expire_of_ne_eight period full]
    refine ⟨by dsimp only; omega, by dsimp only; omega, fun six => ?_, fun urgent => ?_⟩
    · by_cases five : r.debt = 5
      · simp [five]
      · simp [urgentFromSix (show 6 ≤ r.debt by dsimp only at six; omega)]
    · rcases Bool.or_eq_true_iff.1 urgent with already | five
      · exact Int.le_trans (threeIfUrgent already) (by dsimp only; omega)
      · have := of_decide_eq_true five
        dsimp only
        omega

theorem Renew.lawful_settled {r : Renew} (debt : r.debt = 0) (urgent : r.urgent = false) : r.Lawful := by
  rw [Renew.Lawful, debt, urgent]
  decide

theorem renewTimerExpired_quiet (l : Fin 2) (s : State) : Quiet s (renewTimerExpired l s) := by
  have expired : Quiet s (s.modRenew l fun r => r.expire s.renewPeriod) := .modRenew l _ fun law => law.expire _
  exact .ite (fun _ => .ite (fun _ => expired.trans (.raise _)) fun _ => expired) fun _ => .rfl

theorem startRenewTimers_quiet (s : State) : Quiet s (startRenewTimers s) :=
  .renewed _ fun l law => by
    rw [getElem_ofFn_fin]
    split
    · exact law.of_same (Eq.refl _) (Eq.refl _)
    · exact law

theorem stopRenewTimers_quiet (s : State) : Quiet s (stopRenewTimers s) :=
  .renewed _ fun l law => by
    rw [getElem_mapVector]
    exact law.of_same (Eq.refl _) (Eq.refl _)

theorem dropRenewDebts_quiet (s : State) : Quiet s (dropRenewDebts s) :=
  .renewed _ fun l _ => by
    rw [getElem_mapVector]
    exact Renew.lawful_settled (Eq.refl _) (Eq.refl _)

theorem writeLayers_quiet (v : Reg) (s : State) : Quiet s (writeLayers v s) := by
  refine unlessBusy_quiet (.ite (fun _ => .refuse _ _) fun _ => ?_)
  split
  · exact (Quiet.of_view (s := s) (t := { s with layers := 1 }) (Eq.refl _)).trans
      (.modRenew 1 _ fun _ => Renew.lawful_settled (Eq.refl _) (Eq.refl _))
  · exact .of_view (Eq.refl _)
  · exact .refuse _ _

/-! ### The scrub and the window -/

theorem scrubAbandon_quiet (s : State) : Quiet s (scrubAbandon s) := (Quiet.modScrub _).trans (.modArbiter _)

theorem scrubStepEnd_quiet (s : State) : Quiet s (scrubStepEnd s) := .modScrub _

theorem scrubIntervalExpired_quiet (s : State) : Quiet s (scrubIntervalExpired s) :=
  .ite (fun _ => .modScrub _) fun _ => .rfl

theorem writeScrubEn_quiet (v : Reg) (s : State) : Quiet s (writeScrubEn v s) := by
  refine unlessBusy_quiet ?_
  split
  · exact .ite (fun _ => (Quiet.modScrub _).trans (scrubAbandon_quiet _)) fun _ => .modScrub _
  · exact .ite (fun _ => .rfl) fun _ => .modScrub _
  · exact .refuse _ _

theorem endWindow_quiet (x : WindowStatus) (s : State) : Quiet s (endWindow x s) := (Quiet.modWindow _).trans (.raise _)

theorem windowCommand_quiet (k : Kind) (z : Size) (s : State) : Quiet s (windowCommand k z s) :=
  .ite (fun _ => .refuse _ _) fun _ => .ite (fun _ => .refuse _ _) fun _ => .ite (fun _ => endWindow_quiet _ s) fun _ =>
    .ite (fun _ => endWindow_quiet _ s) fun _ => .modWindow _

/-! ### Memory port control -/

theorem leaveService_quiet (s : State) : Quiet s (leaveService s) :=
  ((dropRenewDebts_quiet s).trans (scrubAbandon_quiet _)).trans .loseContents

theorem endOfferedWindow_quiet (s : State) : Quiet s (endOfferedWindow s) :=
  .ite (fun _ => endWindow_quiet _ s) fun _ => .rfl

theorem enterOffline_quiet (s : State) : Quiet s (enterOffline s) :=
  ((leaveService_quiet s).trans (endOfferedWindow_quiet _)).trans (.modMemPort _)

theorem enterFault_quiet (s : State) : Quiet s (enterFault s) :=
  ((leaveService_quiet s).trans (.modMemPort _)).trans (.raise _)

theorem finishSweep_quiet (s : State) : Quiet s (finishSweep s) := by
  have formed : Quiet s (formRecords s) := .modMemPort _
  unfold finishSweep
  dsimp only
  split
  · exact .ite (fun _ => formed.trans (enterFault_quiet _)) fun _ => (formed.trans (.modMemPort _)).trans (.raise _)
  · exact .ite (fun _ => (formed.trans (.modMemPort _)).trans (.raise _)) fun _ => formed.trans (.modMemPort _)
  · exact formed

theorem patternDataEnded_quiet (b : CapturedBeats) (s : State) : Quiet s (patternDataEnded b s) := by
  have compared : ∀ tap, Quiet s (compareLanes b tap s) := fun _ => .modMemPort _
  unfold patternDataEnded
  split
  · refine .ite (fun _ => ?_) fun _ => .rfl
    split
    · exact (compared _).trans (.modMemPort _)
    · exact (compared _).trans (finishSweep_quiet _)
  · exact .rfl

theorem clearRecords_quiet (s : State) : Quiet s (clearRecords s) :=
  { Quiet.of_view (t := s) (Eq.refl _) with
    openWindow := fun l => by
      have empty : (clearRecords s).layerRecords[l].openWindow = [] := by simp [clearRecords, LayerRecord.reset]
      rw [empty]
      exact Nat.zero_le _ }

theorem settleExpired_quiet (s : State) : Quiet s (settleExpired s) := by
  refine .ite (fun _ => ?_) fun _ => .rfl
  have latencies : Quiet s (s.modStack fun m => { m with latencies := some (s.param .rdl, s.param .wdl), mode := .ready }) :=
    .of_view (Eq.refl _)
  exact (((latencies.trans (clearRecords_quiet _)).trans (.modMemPort _)).trans (.modMemPort _)).trans
    (startRenewTimers_quiet _)

theorem start_quiet (s : State) : Quiet s (start s) :=
  unlessBusy_quiet (.ite (fun _ => .refuse _ _) fun _ => .ite (fun _ => .refuse _ _) fun _ => .modMemPort _)

theorem recal_quiet (s : State) : Quiet s (recal s) :=
  unlessBusy_quiet (.ite (fun _ => .modMemPort _) fun _ => .refuse _ _)

theorem stop_quiet (s : State) : Quiet s (stop s) :=
  unlessBusy_quiet (.ite (fun _ => enterOffline_quiet s) fun _ => .ite (fun _ => .modMemPort _) fun _ => .refuse _ _)

theorem park_quiet (s : State) : Quiet s (park s) :=
  unlessBusy_quiet (.ite (fun _ => .modMemPort _) fun _ => .refuse _ _)

theorem issueUnpark_quiet (s : State) : Quiet s (issueUnpark s) := .of_view (Eq.refl _)

theorem unpark_quiet (s : State) : Quiet s (unpark s) := by
  obtain ⟨code, refused⟩ | now | later := unpark_cases s
  · exact refused ▸ .refuse _ _
  · exact now ▸ issueUnpark_quiet s
  · exact later ▸ (tick_quiet s).trans (issueUnpark_quiet _)

theorem recalSweepStarted_quiet (s : State) : Quiet s (recalSweepStarted s) :=
  .ite (fun _ => .modMemPort _) fun _ => .rfl

theorem stopCompleted_quiet (s : State) : Quiet s (stopCompleted s) :=
  .ite (fun _ => enterOffline_quiet s) fun _ => .rfl

theorem xptExpired_quiet (s : State) : Quiet s (xptExpired s) := by
  refine .ite (fun _ => ?_) fun _ => .rfl
  refine Quiet.trans (t := { s with
    renews := Vector.ofFn fun l : Fin 2 =>
      if s.fitted l then { s.renews[l] with debt := 0, urgent := false } else s.renews[l] }) ?_ ?_
  · refine .renewed _ fun l law => ?_
    rw [getElem_ofFn_fin]
    split
    · exact Renew.lawful_settled (Eq.refl _) (Eq.refl _)
    · exact law
  · exact (((startRenewTimers_quiet _).trans (.modMemPort _)).trans (.raise _)).trans (.of_view (Eq.refl _))

/-! ### Completions and the ports -/

theorem holdoffExpired_quiet (s : State) : Quiet s (holdoffExpired s) :=
  .ite (fun _ => .modCq _ (Eq.refl _)) fun _ => .rfl

theorem disableChannel_quiet (c : Fin 5) (s : State) : Quiet s (disableChannel c s) :=
  .ite (fun idle => .modChannel c _ (Eq.refl _) (Eq.refl _) (by rw [idle]; rfl)) fun _ => .refuse _ _

theorem onChannel_quiet {n : Fin 8} {f : Fin 5 → State → State} {s : State} (hf : ∀ c, Quiet s (f c s)) :
    Quiet s (onChannel n f s) := by
  refine unlessBusy_quiet ?_
  split
  · exact hf _
  · exact .refuse _ _

theorem offerNext_quiet (c : Fin 5) (s : State) : Quiet s (offerNext c s) :=
  .ite (fun _ => .modChannel c _ (Eq.refl _) (Eq.refl _) (Eq.refl _)) fun _ => .rfl

theorem take_quiet (p : Fin 4) (s : State) : Quiet s (take p s) := by
  unfold take
  split
  case h_1 w m rest _ words => exact .modPort p _ (by rw [words]; exact Nat.le_succ _)
  case h_2 => exact .raise _

theorem StreamPort.turn_fifo (q : StreamPort) (d : Direction) : (q.turn d).fifo.length ≤ q.fifo.length := by
  unfold StreamPort.turn
  split
  · exact Nat.le_refl _
  · cases d <;> exact Nat.zero_le _

theorem writeDirection_quiet (p : Fin 4) (v : Reg) (s : State) : Quiet s (writeDirection p v s) := by
  refine unlessBusy_quiet (.ite (fun _ => .refuse _ _) fun _ => ?_)
  split
  · exact .modPort p _ (StreamPort.turn_fifo _ _)
  · exact .modPort p _ (StreamPort.turn_fifo _ _)
  · exact .refuse _ _

theorem writeEnable_quiet (p : Fin 4) (v : Reg) (s : State) : Quiet s (writeEnable p v s) := by
  refine unlessBusy_quiet ?_
  split
  · exact .modPort p _ (Nat.le_refl _)
  · exact .modPort p _ (Nat.le_refl _)
  · exact .refuse _ _

theorem flush_quiet (n : Fin 8) (s : State) : Quiet s (flush n s) := by
  refine unlessBusy_quiet ?_
  split
  · exact .ite (fun _ => .modPort _ _ (Nat.zero_le _)) fun _ => .refuse _ _
  · exact .refuse _ _

theorem endTransferReset_quiet (s : State) : Quiet s (endTransferReset s) := by
  refine .ite (fun _ => ?_) fun _ => .rfl
  exact (Quiet.mapChannels Channel.afterTransferReset fun _ => ⟨Eq.refl _, Eq.refl _, Eq.refl _⟩).trans
    (.of_view (Eq.refl _))

/-! ### Host writes -/

theorem clearFaults_quiet (s : State) : Quiet s (clearFaults s) := unlessBusy_quiet (.of_view (Eq.refl _))

theorem clearFlags_quiet (r : FlagReg) (v : Reg) (s : State) : Quiet s (clearFlags r v s) := by
  have unlinked (u : State) :
      Quiet u { u with channels := mapVector u.channels fun ch => { ch with lastRefused := none } } :=
    .mapChannels _ fun _ => ⟨Eq.refl _, Eq.refl _, Eq.refl _⟩
  have forgiven (u : State) : Quiet u { u with renews := mapVector u.renews fun l => { l with overrun := false } } :=
    .renewed _ fun l law => by
      rw [getElem_mapVector]
      exact law.of_same (Eq.refl _) (Eq.refl _)
  have cleared : Quiet s { s with flags := s.flags &&& ~~~flagPlaces v r } := .of_view (Eq.refl _)
  unfold clearFlags
  dsimp only
  split <;> split
  · exact (cleared.trans (unlinked _)).trans (forgiven _)
  · exact cleared.trans (forgiven _)
  · exact cleared.trans (unlinked _)
  · exact cleared

theorem writeMask_quiet (r : FlagReg) (v : Reg) (s : State) : Quiet s (writeMask r v s) :=
  unlessBusy_quiet (.of_view (Eq.refl _))

/-- A field register holds no item of a slot's owner. -/
theorem writePage0_owner {d x : Slot} {v : Reg} {f : Nat} (h : writePage0 d v f = some x) :
    x.owner = d.owner ∧ x.holder = d.holder := by
  unfold writePage0 at h
  split at h
  case h_1 =>
    obtain ⟨_, _, rfl⟩ := Option.map_eq_some_iff.1 h
    exact ⟨rfl, rfl⟩
  case h_5 =>
    obtain ⟨_, _, rfl⟩ := Option.map_eq_some_iff.1 h
    exact ⟨rfl, rfl⟩
  all_goals
    cases h
    try exact ⟨rfl, rfl⟩

theorem writePage1_owner {d x : Slot} {v : Reg} {f : Nat} (h : writePage1 d v f = some x) :
    x.owner = d.owner ∧ x.holder = d.holder := by
  unfold writePage1 at h
  split at h
  all_goals
    cases h
    try exact ⟨rfl, rfl⟩

theorem writeField_quiet (f : Fin 8) (v : Reg) (s : State) : Quiet s (writeField f v s) := by
  unfold writeField
  dsimp only
  refine unlessBusy_quiet (.ite (fun _ => .refuse _ _) fun _ => .ite (fun _ => .refuse _ _) fun _ => ?_)
  split
  case h_1 d written =>
    have ⟨owner, holder⟩ : d.owner = s.slots[s.slotSelect].owner ∧ d.holder = s.slots[s.slotSelect].holder := by
      split at written
      · exact writePage1_owner written
      · exact writePage0_owner written
    exact .modSlot _ _ owner holder
  case h_2 => exact .refuse _ _

theorem inRange_quiet {x : BitVec 8} {low high : Nat} {v : Reg} {set : Nat → State → State} {s : State}
    (h : low ≤ v.toNat → v.toNat ≤ high → Quiet s (set v.toNat s)) : Quiet s (inRange x low high v set s) :=
  .ite (fun within =>
    have ⟨above, below⟩ := Bool.and_eq_true_iff.1 within
    h (of_decide_eq_true above) (of_decide_eq_true below)) fun _ => .refuse _ _

theorem configItem_quiet {x : BitVec 8} {low high : Nat} {v : Reg} {set : Nat → State → State} {s : State}
    (h : Quiet s (set v.toNat s)) : Quiet s (configItem x low high v set s) :=
  .ite (fun _ => inRange_quiet fun _ _ => h) fun _ => .refuse _ _

theorem unlessWindowBusy_quiet (x : BitVec 8) (f : Window → Window) (s : State) : Quiet s (unlessWindowBusy x f s) :=
  .ite (fun _ => .refuse _ _) fun _ => .modWindow _

theorem writeChannelItem_quiet (c : Fin 5) (item : Nat) (x : BitVec 8) (v : Reg) (s : State) :
    Quiet s (writeChannelItem c item x v s) := by
  unfold writeChannelItem
  split
  · exact inRange_quiet fun _ _ => .modChannel c _ (Eq.refl _) (Eq.refl _) (Eq.refl _)
  · exact .ite (fun _ => .refuse _ _) fun _ =>
      inRange_quiet fun _ _ => .modChannel c _ (Eq.refl _) (Eq.refl _) (Eq.refl _)
  · exact .ite (fun _ => .refuse _ _) fun _ =>
      inRange_quiet fun _ _ => .modChannel c _ (Eq.refl _) (Eq.refl _) (Eq.refl _)
  · exact .refuse _ _

theorem writeSingle_quiet (i : Nat) (x : BitVec 8) (v : Reg) (s : State) : Quiet s (writeSingle i x v s) := by
  unfold writeSingle
  split
  case h_1 => exact writeMask_quiet .a v s
  case h_2 => exact writeMask_quiet .b v s
  case h_3 => exact .of_view (Eq.refl _)
  case h_4 => exact inRange_quiet fun _ _ => .modCq _ (Eq.refl _)
  case h_5 => exact inRange_quiet fun _ _ => .modCq _ (Eq.refl _)
  case h_6 => exact unlessWindowBusy_quiet _ _ s
  case h_7 => exact unlessWindowBusy_quiet _ _ s
  case h_8 => exact inRange_quiet fun low high => .bypassCap _ low high
  case h_9 => exact inRange_quiet fun _ _ => .of_view (Eq.refl _)
  case h_10 => exact inRange_quiet fun _ _ => .of_view (Eq.refl _)
  case h_11 => exact inRange_quiet fun _ _ => .of_view (Eq.refl _)
  case h_12 => exact writeLayers_quiet v s
  case h_13 => exact configItem_quiet (.of_view (Eq.refl _))
  case h_14 => exact configItem_quiet (.of_view (Eq.refl _))
  case h_15 => exact writeScrubEn_quiet v s
  case h_16 => exact inRange_quiet fun _ _ => .modScrub _
  case h_17 => exact .refuse _ _

theorem writePortBlock_quiet (i : Nat) (x : BitVec 8) (v : Reg) (s : State) : Quiet s (writePortBlock i x v s) := by
  unfold writePortBlock
  split
  · split
    · exact writeDirection_quiet _ v s
    · exact writeEnable_quiet _ v s
    · exact .refuse _ _
  · exact .refuse _ _

theorem writeOther_quiet (x : BitVec 8) (v : Reg) (s : State) : Quiet s (writeOther x v s) := by
  unfold writeOther
  dsimp only
  split
  · exact writeField_quiet _ v s
  refine .ite (fun _ => ?window) fun _ => .ite (fun _ => ?channels) fun _ => .ite (fun _ => writePortBlock_quiet _ x v s)
    fun _ => .ite (fun _ => ?params) fun _ => writeSingle_quiet _ x v s
  case window =>
    unfold writeWindowBlock
    split
    · exact unlessWindowBusy_quiet _ _ s
    · exact .refuse _ _
  case channels =>
    unfold writeChannelBlock
    split
    · exact writeChannelItem_quiet _ _ x v s
    · exact .refuse _ _
  case params =>
    unfold writeParamBlock
    split
    · exact configItem_quiet (.of_view (Eq.refl _))
    · exact .refuse _ _

end Sys2Proof.Machine
end

section
/-! SUPPORT. Every command is quiet or one of fourteen operations, and what a quiet command does to each law. -/

namespace Sys2Proof.Machine

/-- The operations that a law can notice. -/
inductive Loud : (State → State) → Prop
  | submit (c : Fin 5) (k : Fin 64) : Loud (submitTo c k)
  | enable (c : Fin 5) : Loud (enableChannel c)
  | resume (c : Fin 5) : Loud (resumeChannel c)
  | cancel (c : Fin 5) : Loud (cancelChannel c)
  | pop : Loud popRecord
  | transferReset : Loud startTransferReset
  | deviceReset : Loud deviceReset
  | pin : Loud pinAsserted
  | arrival (p : Fin 4) (w : Word) (m : Bool) : Loud (arrive p w m)
  | placement (p : Fin 4) : Loud (placeWord p)
  | admission : Loud admitNext
  | slot : Loud commandSlot
  | ret (flips : List StackWord) : Loud (takeReturn flips)
  | sent : Loud takeSent

/-- `t` comes of `s` by a quiet change, behind which one of the loud operations may stand. -/
inductive Effect (s t : State) : Prop
  | quiet (h : Quiet s t)
  | loud (u : State) (f : State → State) (before : Quiet s u) (op : Loud f) (is : t = f u)

theorem Loud.effect {f : State → State} (op : Loud f) (s : State) : Effect s (f s) := .loud s f .rfl op rfl

theorem unlessBusy_effect {x : BitVec 8} {f : State → State} {s : State} (hf : Effect s (f s)) :
    Effect s (s.unlessBusy x f) := by
  unfold State.unlessBusy
  split
  · exact .quiet (.refuse _ _)
  · exact hf

theorem onChannel_effect {n : Fin 8} {f : Fin 5 → State → State} (s : State) (op : ∀ c, Loud (f c)) :
    Effect s (onChannel n f s) := by
  refine unlessBusy_effect ?_
  split
  · exact (op _).effect s
  · exact .quiet (.refuse _ _)

theorem submit_effect (n : Fin 8) (k : Fin 64) (s : State) : Effect s (submit n k s) := by
  unfold submit
  split
  · exact (Loud.submit _ k).effect s
  · exact .quiet (.refuse _ _)

/-- A strobe is judged under the direction that stands: an arrival, or a take, which no law notices. -/
theorem strobeWith_effect (p : Fin 4) (w : Word) (m : Bool) (s : State) : Effect s (strobeWith p w m s) := by
  unfold strobeWith
  split
  · exact (Loud.arrival p w m).effect s
  · exact .quiet (take_quiet p s)

theorem strobe_effect (p : Fin 4) (s : State) : Effect s (strobe p s) := by
  unfold strobe
  split
  · exact .loud { s with freeCount := s.freeCount + 1 } _ (.of_view rfl) (.arrival p _ _) rfl
  · exact .quiet (take_quiet p s)

theorem runHostCommand_effect (i : Instr) (s : State) : Effect s (runHostCommand i s) := by
  cases i
  case submit n k => exact submit_effect n k s
  case enable n => exact onChannel_effect s .enable
  case disable n => exact .quiet (onChannel_quiet fun c => disableChannel_quiet c s)
  case cancel n => exact onChannel_effect s .cancel
  case resume n => exact onChannel_effect s .resume
  case flush n => exact .quiet (flush_quiet n s)
  case start => exact .quiet (start_quiet s)
  case recal => exact .quiet (recal_quiet s)
  case stop => exact .quiet (stop_quiet s)
  case park => exact .quiet (park_quiet s)
  case unpark => exact .quiet (unpark_quiet s)
  case clearFaults => exact .quiet (clearFaults_quiet s)
  case pop => exact unlessBusy_effect (Loud.pop.effect s)
  case windowRead z => exact .quiet (windowCommand_quiet .read z s)
  case windowWrite z => exact .quiet (windowCommand_quiet .write z s)
  case transferReset => exact unlessBusy_effect (Loud.transferReset.effect s)
  case deviceReset => exact Loud.deviceReset.effect s
  all_goals exact .quiet .rfl

theorem writeRegister_effect (x : BitVec 8) (v : Reg) (s : State) : Effect s (writeRegister x v s) := by
  unfold writeRegister
  split
  · unfold writeCommand
    split
    · exact runHostCommand_effect _ s
    · exact .quiet (unlessBusy_quiet (.refuse _ _))
  · split
    · exact .quiet (clearFlags_quiet _ v s)
    · split
      · exact .quiet (clearFlags_quiet _ v s)
      · exact .quiet (unlessBusy_quiet (writeOther_quiet x v s))

/-- What a command of the host, the pins or the part can do to a law, command by command. -/
theorem operation_effect (i : Instr) (s : State) : Effect s (operation i s) := by
  cases i
  case submit n k => exact submit_effect n k s
  case enable n => exact runHostCommand_effect (.enable n) s
  case disable n => exact runHostCommand_effect (.disable n) s
  case cancel n => exact runHostCommand_effect (.cancel n) s
  case resume n => exact runHostCommand_effect (.resume n) s
  case flush n => exact .quiet (flush_quiet n s)
  case start => exact .quiet (start_quiet s)
  case recal => exact .quiet (recal_quiet s)
  case stop => exact .quiet (stop_quiet s)
  case park => exact .quiet (park_quiet s)
  case unpark => exact .quiet (unpark_quiet s)
  case clearFaults => exact .quiet (clearFaults_quiet s)
  case pop => exact runHostCommand_effect .pop s
  case windowRead z => exact .quiet (windowCommand_quiet .read z s)
  case windowWrite z => exact .quiet (windowCommand_quiet .write z s)
  case transferReset => exact runHostCommand_effect .transferReset s
  case deviceReset => exact Loud.deviceReset.effect s
  case resetPin => exact Loud.pin.effect s
  case flagClear r v => exact .quiet (clearFlags_quiet r v s)
  case maskWrite r v => exact .quiet (writeMask_quiet r v s)
  case descriptorFieldWrite f v => exact .quiet (writeField_quiet f v s)
  case portDirectionWrite p v => exact .quiet (writeDirection_quiet p v s)
  case portEnableWrite p v => exact .quiet (writeEnable_quiet p v s)
  case layersWrite v => exact .quiet (writeLayers_quiet v s)
  case scrubEnWrite v => exact .quiet (writeScrubEn_quiet v s)
  case pairedLowRead item => exact .quiet (.of_view rfl)
  case registerWrite x v => exact writeRegister_effect x v s
  case portArrival p w m => exact strobeWith_effect p w m s
  case portTake p => exact strobe_effect p s
  case wordPlacement p => exact (Loud.placement p).effect s
  case admission => exact Loud.admission.effect s
  case commandSlot => exact Loud.slot.effect s
  case a2cExpiry b => exact .quiet (.ite (fun _ => .modBank b _) fun _ => .rfl)
  case shtExpiry b => exact .quiet (.ite (fun _ => .modBank b _) fun _ => .rfl)
  case autoShut b => exact .quiet (.ite (fun _ => .modBank b _) fun _ => .rfl)
  case idleTimerExpiry b => exact .quiet (.ite (fun _ => .modBank b _) fun _ => .rfl)
  case renewingTimerExpiry l => exact .quiet (renewingExpired_quiet l s)
  case renewTimerExpiry l => exact .quiet (renewTimerExpired_quiet l s)
  case settleExpiry => exact .quiet (settleExpired_quiet s)
  case patternReadDataEnd b => exact .quiet (patternDataEnded_quiet b s)
  case recalSweepStart => exact .quiet (recalSweepStarted_quiet s)
  case stopComplete => exact .quiet (stopCompleted_quiet s)
  case xptExpiry => exact .quiet (xptExpired_quiet s)
  case holdoffExpiry => exact .quiet (holdoffExpired_quiet s)
  case scrubIntervalExpiry => exact .quiet (scrubIntervalExpired_quiet s)
  case ret flips => exact (Loud.ret flips).effect s
  case dataSent => exact Loud.sent.effect s
  case transferResetEnd => exact .quiet (endTransferReset_quiet s)
  case resetPinRelease => exact .quiet .rfl

/-- A law that quiet changes keep is kept by every step once each loud operation keeps it. -/
theorem law_kept {P : State → Prop} (quiet : ∀ {s t}, Quiet s t → P s → P t) (loud : ∀ {f}, Loud f → ∀ s, P s → P (f s))
    {s t : State} (hs : P s) (h : step s = .next t) : P t := by
  refine step_keeps (fun u q hu => quiet (s := u) (.of_view rfl) hu) (fun u hu => quiet (s := u) (.of_view rfl) hu)
    (fun u hu => quiet (tick_quiet u) hu) (fun i u hu => ?_) hs h
  cases operation_effect i u with
  | quiet change => exact quiet change hu
  | loud v f before op is => exact is ▸ loud op v (quiet before hu)

/-! ### A quiet change and each law -/

theorem Quiet.debtLaw {s t : State} (h : Quiet s t) (law : DebtLaw s) : DebtLaw t := fun l => h.debt l (law l)

theorem Quiet.bypassLaw {s t : State} (h : Quiet s t) (law : BypassLaw s) : BypassLaw t := by
  obtain ⟨low, high, lawful⟩ := law
  have ⟨low', high'⟩ := h.cap ⟨low, high⟩
  exact ⟨low', high', h.paq ▸ lawful⟩

theorem Quiet.capacityLaw {s t : State} (h : Quiet s t) (law : CapacityLaw s) : CapacityLaw t := by
  obtain ⟨paq, cq, queues, fifos, windows⟩ := law
  refine ⟨h.paq ▸ paq, h.cq ▸ cq, fun c => ?_, fun p => Nat.le_trans (h.fifo p) (fifos p),
    fun l => Nat.le_trans (h.openWindow l) (windows l)⟩
  rw [(h.channel c).1]
  exact queues c

theorem Quiet.ownerLaw {s t : State} (h : Quiet s t) (law : OwnerLaw s) : OwnerLaw t := by
  obtain ⟨held, busy, host⟩ := law
  refine ⟨fun c k => ?_, fun c => ?_, fun k => ?_⟩
  · rw [(h.channel c).1, (h.channel c).2.1, (h.slot k).1, (h.slot k).2]
    exact held c k
  · rw [(h.channel c).1, (h.channel c).2.1, (h.channel c).2.2]
    exact busy c
  · rw [(h.slot k).1, (h.slot k).2]
    exact host k

/-- Operations that leave the access queue, the issued list and the buffers leave the law of the buffers. -/
theorem WdbLaw.of_same {s t : State} (law : WdbLaw s) (paq : t.paq = s.paq) (next : t.nextEntry = s.nextEntry)
    (issued : t.issued = s.issued) (wdb : t.wdb = s.wdb) : WdbLaw t := by
  obtain ⟨⟨order, young⟩, waiting, out, held⟩ := law
  refine ⟨⟨paq ▸ order, ?_⟩, paq ▸ waiting, issued ▸ out, fun i => ?_⟩
  · rw [paq, next]
    exact young
  · rw [wdbHolders, paq, issued, wdb]
    exact held i

theorem Quiet.wdbLaw {s t : State} (h : Quiet s t) (law : WdbLaw s) : WdbLaw t :=
  law.of_same h.paq h.nextEntry h.issued h.wdb

end Sys2Proof.Machine
end

section
/-! SUPPORT. What the loud operations leave as it is: a command to a channel, a word placed or arrived, an admission, the start
of a transfer reset. -/

namespace Sys2Proof.Machine

theorem submitTo_hostPart (c : Fin 5) (k : Fin 64) (s : State) : HostPart s (submitTo c k s) := by
  unfold submitTo
  repeat' split
  any_goals exact .refuse _ _
  · exact ((appendSlot_runPart c k s).trans (takeNext_runPart c _)).hostPart
  · exact (appendSlot_runPart c k s).hostPart

/-- An arrival and a word placed change the ports, and else what a run's event changes. -/
def StreamPart (s t : State) : Prop := ∃ ports, RunPart { s with ports := ports } t

theorem arrive_streamPart (p : Fin 4) (w : Word) (m : Bool) (s : State) : StreamPart s (arrive p w m s) := by
  unfold arrive
  split
  · exact ⟨_, offerNext_runPart _ _⟩
  · exact ⟨s.ports, .raise _⟩

theorem placeWord_streamPart (p : Fin 4) (s : State) : StreamPart s (placeWord p s) := by
  unfold placeWord
  split
  · exact ⟨s.ports, .rfl⟩
  · exact ⟨_, (RunPart.modChannel _ _).trans (settleChannel_runPart _ _)⟩

/-- What quiet changes and the issue of every admissible choice keep, a command slot keeps. -/
theorem runSlot_keeps {P : State → Prop} (quiet : ∀ {s t}, Quiet s t → P s → P t)
    (issues : ∀ {c s}, Admissible s c → P s → P (issue c s)) {s : State} (h : P s) : P (runSlot s) := by
  unfold runSlot
  split
  case h_1 c chosen => exact quiet (s := issue c s) (.of_view rfl) (issues (choose_sound s c chosen) h)
  case h_2 => exact quiet (s := s) (.of_view rfl) h

theorem commandSlot_keeps {P : State → Prop} (quiet : ∀ {s t}, Quiet s t → P s → P t)
    (issues : ∀ {c s}, Admissible s c → P s → P (issue c s)) {s : State} (h : P s) : P (commandSlot s) := by
  unfold commandSlot
  split
  · exact h
  · exact runSlot_keeps quiet issues (quiet (settleBanks_quiet s) h)

theorem admitNext_admitPart (s : State) : AdmitPart s (admitNext s) := by
  unfold admitNext
  split
  · exact admitFrom_admitPart _ s
  · exact .rfl

/-! ### The start of a transfer reset -/

/-- `t` differs from `s` at most in the write data buffer and the channels. -/
def DiscardPart (s t : State) : Prop := ∃ wdb channels, t = { s with wdb := wdb, channels := channels }

theorem DiscardPart.trans {s t u : State} (h : DiscardPart s t) (k : DiscardPart t u) : DiscardPart s u := by
  obtain ⟨_, _, rfl⟩ := h
  obtain ⟨wdb, channels, rfl⟩ := k
  exact ⟨wdb, channels, rfl⟩

theorem releaseWdb_discardPart (b : Buffer) (s : State) : DiscardPart s (releaseWdb b s) := by
  unfold releaseWdb
  split
  · exact ⟨_, s.channels, rfl⟩
  · exact ⟨s.wdb, s.channels, rfl⟩

theorem discardEntry_discardPart (s : State) (e : Entry) : DiscardPart s (discardEntry s e) := by
  have released := releaseWdb_discardPart e.buffer s
  have channel (u : State) (c : Fin 5) (f : Channel → Channel) : DiscardPart u (u.modChannel c f) := ⟨u.wdb, _, rfl⟩
  unfold discardEntry
  dsimp only
  split <;> split
  · exact (released.trans (channel _ _ _)).trans (channel _ _ _)
  · exact released.trans (channel _ _ _)
  · exact released.trans (channel _ _ _)
  · exact released

theorem discardEntries_discardPart (es : List Entry) (s : State) : DiscardPart s (es.foldl discardEntry s) := by
  induction es generalizing s with
  | nil => exact ⟨s.wdb, s.channels, rfl⟩
  | cons e es ih => exact (discardEntry_discardPart s e).trans (ih _)

/-- All that the start of a transfer reset can change; nothing waits after it. -/
theorem startTransferReset_frame (s : State) :
    ∃ busy wdb channels slots ports cq scrub arbiter flags window,
      startTransferReset s =
        { s with
          transferReset := busy, paq := [], wdb := wdb, channels := channels, slots := slots, ports := ports, cq := cq
          scrub := scrub, arbiter := arbiter, flags := flags, window := window } := by
  obtain ⟨wdb, channels, discarded⟩ := discardEntries_discardPart s.paq s
  have window : ∀ w u, ∃ window flags, windowAtTransferReset w u = { u with window := window, flags := flags } :=
    fun w u => by
      unfold windowAtTransferReset
      split
      · split
        · exact ⟨_, _, rfl⟩
        · exact ⟨u.window, u.flags, rfl⟩
      · exact ⟨_, u.flags, rfl⟩
  have ended : ∀ u, ∃ busy channels flags,
      endTransferReset u = { u with transferReset := busy, channels := channels, flags := flags } := fun u => by
    unfold endTransferReset
    split
    · exact ⟨_, _, _, rfl⟩
    · exact ⟨u.transferReset, u.channels, u.flags, rfl⟩
  unfold startTransferReset discardWaiting
  rw [discarded]
  dsimp only
  obtain ⟨_, _, _, h⟩ := ended _
  rw [h]
  obtain ⟨_, _, h⟩ := window _ _
  rw [h]
  exact ⟨_, _, _, _, _, _, _, _, _, _, rfl⟩

end Sys2Proof.Machine
end

section
/-! SUPPORT. The law of the debt at each loud operation: only the RENEW of a command slot moves a debt (R74). -/

namespace Sys2Proof.Machine

/-- A RENEW that the scheduler may issue keeps the law of the debt: it goes to an URGENT layer, whose debt is 3 or more, or to a
debt of -3 or more (R18, R59, R74). -/
theorem Renew.Lawful.paid {r : Renew} (h : r.Lawful) (may : r.urgent = true ∨ (r.urgent = false ∧ -3 ≤ r.debt)) :
    r.paid.Lawful := by
  obtain ⟨low, high, urgentFromSix, threeIfUrgent⟩ := h
  have debt : r.paid.debt = r.debt - 1 := rfl
  have urgent : r.paid.urgent = (r.urgent && r.debt ≠ 3) := rfl
  have atLeast : -3 ≤ r.debt := by
    obtain mark | ⟨_, above⟩ := may
    · exact Int.le_trans (by decide) (threeIfUrgent mark)
    · exact above
  refine ⟨by omega, by omega, fun six => ?_, fun mark => ?_⟩
  · have notThree : r.debt ≠ 3 := by omega
    simp [urgent, urgentFromSix (by omega), notThree]
  · simp only [urgent, Bool.and_eq_true, decide_eq_true_eq] at mark
    have := threeIfUrgent mark.1
    have := mark.2
    omega

theorem issueOnBus_renews (k : Kind) (c : Fin 8) (ends : Nat) (s : State) : (issueOnBus k c ends s).renews = s.renews := rfl

theorem issueColumn_renews (e : Entry) (s : State) : (issueColumn e s).renews = s.renews := by
  simp only [issueColumn, modBank_renews, issueOnBus_renews]

theorem issuePattern_renews (s : State) : (issuePattern s).renews = s.renews := by
  unfold issuePattern
  split <;> rfl

theorem DebtLaw.of_same {s t : State} (law : DebtLaw s) (renews : t.renews = s.renews) : DebtLaw t := fun l => by
  rw [renews]
  exact law l

/-- The issue of what the scheduler may choose keeps the law of the debt. -/
theorem issue_debtLaw {c : Choice} {s : State} (may : Admissible s c) (law : DebtLaw s) : DebtLaw (issue c s) := by
  cases c with
  | openRow b row => exact law
  | shut b => exact law
  | column e => exact law.of_same (issueColumn_renews e s)
  | patternRead => exact law.of_same (issuePattern_renews s)
  | park => exact (stopRenewTimers_quiet s).debtLaw law
  | renew l =>
    intro m
    rw [issue, issueRenew, modRenew_renew]
    split
    · exact (law l).paid may.2
    · exact law m

theorem HostPart.renews {s t : State} (h : HostPart s t) : t.renews = s.renews := by
  obtain ⟨_, _, _, _, _, rfl⟩ := h
  rfl

theorem StreamPart.renews {s t : State} (h : StreamPart s t) : t.renews = s.renews := by
  obtain ⟨_, _, _, _, _, rfl⟩ := h
  rfl

theorem AdmitPart.renews {s t : State} (h : AdmitPart s t) : t.renews = s.renews := by
  obtain ⟨_, _, _, _, _, _, _, _, rfl⟩ := h
  rfl

theorem EndPart.renews {s t : State} (h : EndPart s t) : t.renews = s.renews := by
  obtain ⟨_, _, _, _, _, _, _, _, _, _, _, rfl⟩ := h
  rfl

theorem startTransferReset_renews (s : State) : (startTransferReset s).renews = s.renews := by
  obtain ⟨_, _, _, _, _, _, _, _, _, _, frame⟩ := startTransferReset_frame s
  rw [frame]

theorem reset_debtLaw : DebtLaw State.reset := by decide

theorem Loud.debtLaw {f : State → State} (op : Loud f) (s : State) (law : DebtLaw s) : DebtLaw (f s) := by
  cases op with
  | submit c k => exact law.of_same (submitTo_hostPart c k s).renews
  | enable c => exact law.of_same (enableChannel_hostPart c s).renews
  | resume c => exact law.of_same (resumeChannel_hostPart c s).renews
  | cancel c => exact law.of_same (cancelChannel_hostPart c s).renews
  | pop => exact law.of_same (popRecord_hostPart s).renews
  | transferReset => exact law.of_same (startTransferReset_renews s)
  | deviceReset => exact reset_debtLaw
  | pin => exact reset_debtLaw
  | arrival p w m => exact law.of_same (arrive_streamPart p w m s).renews
  | placement p => exact law.of_same (placeWord_streamPart p s).renews
  | admission => exact law.of_same (admitNext_admitPart s).renews
  | slot => exact commandSlot_keeps Quiet.debtLaw issue_debtLaw law
  | ret flips => exact law.of_same (takeReturn_endPart flips s).renews
  | sent => exact law.of_same (takeSent_endPart s).renews

/-- Settles O56: a quiet command keeps each debt lawful, and of the others only a command slot's RENEW moves a debt, which the
scheduler issues where the law lets it. -/
theorem debtLawKept : Obligations.DebtLawKept := fun _ _ => law_kept Quiet.debtLaw Loud.debtLaw

end Sys2Proof.Machine
end

section
/-! SUPPORT. What an admission does to the access queue and the write data buffer: nothing, or one entry more, with its slot if it is
a write (R34, R35). -/

namespace Sys2Proof.Machine

/-- An entry as it joins the queue: the youngest, passed over by none (R34, R39). -/
def Entry.Fresh (s : State) (e : Entry) : Prop :=
  e.id = s.nextEntry ∧ e.bypass = 0 ∧ e.cap = s.bypassCap ∧ e.overdue = false

/-- The queue and the write data buffer after an admission. -/
inductive Admitted (s t : State) : Prop
  | none (paq : t.paq = s.paq) (next : t.nextEntry = s.nextEntry) (wdb : t.wdb = s.wdb)
  | read (e : Entry) (fresh : e.Fresh s) (kind : e.kind = .read) (fits : ∀ i, e.buffer ≠ .wdb i)
    (paq : t.paq = s.paq ++ [e]) (next : t.nextEntry = s.nextEntry + 1) (wdb : t.wdb = s.wdb)
  | write (e : Entry) (i : Fin 16) (words : List Word) (fresh : e.Fresh s) (kind : e.kind = .write)
    (buffer : e.buffer = .wdb i) (free : s.wdb[i] = Option.none) (paq : t.paq = s.paq ++ [e])
    (next : t.nextEntry = s.nextEntry + 1) (wdb : t.wdb = s.wdb.set i (some words))

/-- What an admission reads and writes of the queue. -/
def queueView (s : State) := (s.paq, s.nextEntry, s.wdb, s.bypassCap)

theorem Admitted.before {s u t : State} (h : Admitted u t) (same : queueView u = queueView s) : Admitted s t := by
  simp only [queueView, Prod.mk.injEq] at same
  obtain ⟨paq, next, wdb, cap⟩ := same
  have fresh {e : Entry} (f : e.Fresh u) : e.Fresh s := by
    rw [Entry.Fresh, ← next, ← cap]
    exact f
  cases h with
  | none p n w => exact .none (p.trans paq) (n.trans next) (w.trans wdb)
  | read e f k b p n w => exact .read e (fresh f) k b (paq ▸ p) (next ▸ n) (w.trans wdb)
  | write e i words f k b free p n w =>
    exact .write e i words (fresh f) k b (wdb ▸ free) (paq ▸ p) (next ▸ n) (wdb ▸ w)

theorem Admitted.after {s t u : State} (h : Admitted s t) (same : queueView u = queueView t) : Admitted s u := by
  simp only [queueView, Prod.mk.injEq] at same
  obtain ⟨paq, next, wdb, _⟩ := same
  cases h with
  | none p n w => exact .none (paq.trans p) (next.trans n) (wdb.trans w)
  | read e f k b p n w => exact .read e f k b (paq.trans p) (next.trans n) (wdb.trans w)
  | write e i words f k b free p n w => exact .write e i words f k b free (paq.trans p) (next.trans n) (wdb.trans w)

theorem Admitted.rfl {s : State} : Admitted s s := .none (Eq.refl _) (Eq.refl _) (Eq.refl _)

theorem scrubSees_queueView (burst : Nat) (s : State) : queueView (scrubSees burst s) = queueView s := by
  unfold scrubSees
  split
  · rfl
  · split <;> rfl
  · split <;> rfl

theorem offerNext_queueView (c : Fin 5) (s : State) : queueView (offerNext c s) = queueView s := by
  unfold offerNext
  split <;> rfl

theorem countScrubWait_queueView (s : State) : queueView (countScrubWait s) = queueView s := by
  rw [countScrubWait_eq]
  rfl

theorem enqueue_read (src : Source) {o : Offer} {b : Buffer} (s : State) (kind : o.kind = .read)
    (fits : ∀ i, b ≠ .wdb i) : Admitted s (enqueue src o b s) :=
  .read _ ⟨rfl, rfl, rfl, rfl⟩ kind fits rfl rfl rfl

theorem freeWdb_none {s : State} {i : Fin 16} (h : freeWdb s = some i) : s.wdb[i] = none :=
  Option.isNone_iff_eq_none.1 (firstFin_some h)

theorem enqueueWrite_admitted (src : Source) {o : Offer} (words : List Word) (s : State) (kind : o.kind = .write) :
    Admitted s (enqueueWrite src o words s) := by
  cases free : freeWdb s with
  | none =>
    simp only [enqueueWrite, free]
    exact .rfl
  | some i =>
    have queued : Admitted s (enqueue src o (.wdb i) { s with wdb := s.wdb.set i (some words) }) :=
      .write _ i words ⟨rfl, rfl, rfl, rfl⟩ kind rfl (freeWdb_none free) rfl rfl rfl
    rw [enqueueWrite_some free]
    split
    · exact queued
    · exact queued.after (scrubSees_queueView _ _)

theorem fillAccess_kind (o : Offer) (words : List Word) : (fillAccess o words).1.kind = o.kind := by
  unfold fillAccess
  dsimp only
  split <;> rfl

theorem admitRead_admitted (c : Fin 5) {o : Offer} (s : State) (kind : o.kind = .read) :
    Admitted s (admitRead c o s) := by
  unfold admitRead
  split
  · exact .rfl
  · exact (enqueue_read (.ch c) _ kind fun _ => by simp).before rfl

/-- An INBOUND write with its words, as they fill an access (R116). -/
theorem admitInbound_eq {c : Fin 5} {p : Fin 4} {o : Offer} {d : Slot} {s : State} {n : Nat} {ended : Bool}
    (bound : portOfChannel c = some p)
    (takes : inboundTake d.stopOnMark (wordsOf o.size) (channelFifo s c) = some (n, ended)) :
    admitInbound c o d s =
      let filled := fillAccess o ((s.ports[p].fifo.take n).map fun w => w.1)
      enqueueWrite (.ch c) filled.1 filled.2 <|
        (s.modPort p fun q => { q with fifo := q.fifo.drop n }).modChannel c fun ch =>
          if ended then { ch.advance filled.1 with unitsLeft := 0, endedByMark := true } else ch.advance filled.1 := by
  simp only [admitInbound, bound, takes]

theorem admitInbound_admitted (c : Fin 5) {o : Offer} (d : Slot) (s : State) (kind : o.kind = .write) :
    Admitted s (admitInbound c o d s) := by
  cases bound : portOfChannel c with
  | none =>
    simp only [admitInbound, bound]
    exact .rfl
  | some p =>
    cases takes : inboundTake d.stopOnMark (wordsOf o.size) (channelFifo s c) with
    | none =>
      simp only [admitInbound, bound, takes]
      exact .rfl
    | some taken =>
      rw [admitInbound_eq bound takes]
      exact (enqueueWrite_admitted _ _ _ ((fillAccess_kind _ _).trans kind)).before rfl

theorem admitCopyWrite_admitted (c : Fin 5) {o : Offer} (s : State) (kind : o.kind = .write) :
    Admitted s (admitCopyWrite c o s) := by
  unfold admitCopyWrite
  split
  · exact .rfl
  · split
    · exact (enqueueWrite_admitted _ _ _ kind).before rfl
    · exact .rfl

theorem admitChannel_admitted (c : Fin 5) (s : State) : Admitted s (admitChannel c s) := by
  unfold admitChannel
  split
  · refine Admitted.after ?_ (offerNext_queueView c _)
    split
    case h_1 kind => exact admitRead_admitted c s kind
    case h_2 kind _ => exact admitInbound_admitted c _ s kind
    case h_3 kind _ => exact admitCopyWrite_admitted c s kind
    case h_4 kind _ _ => exact (enqueueWrite_admitted _ _ _ kind).before rfl
  · exact .rfl

theorem admitWindow_admitted (s : State) : Admitted s (admitWindow s) := by
  unfold admitWindow
  split
  · exact .rfl
  · split
    · exact (enqueue_read .win _ rfl fun _ => by simp).before rfl
    · exact (enqueueWrite_admitted _ _ _ rfl).before rfl

theorem admitScrub_admitted (s : State) : Admitted s (admitScrub s) := by
  unfold admitScrub
  split
  · exact (enqueue_read .scrub _ rfl fun _ => by simp).before rfl
  · exact (enqueueWrite_admitted _ _ _ rfl).before rfl
  · exact .rfl

/-- All that an admission can do to the queue and the buffer. -/
theorem admitFrom_admitted (src : Source) (s : State) : Admitted s (admitFrom src s) := by
  unfold admitFrom
  split
  · exact (admitWindow_admitted _).before (countScrubWait_queueView s)
  · exact admitScrub_admitted s
  · exact (admitChannel_admitted _ _).before (countScrubWait_queueView s)

theorem admitNext_admitted (s : State) : Admitted s (admitNext s) := by
  unfold admitNext
  split
  · exact admitFrom_admitted _ s
  · exact .rfl

/-! ### The queue and the issued list at the issue of a choice -/

theorem issueColumn_paq (e : Entry) (s : State) :
    (issueColumn e s).paq = (s.paq.filter fun f => f.id ≠ e.id).map (Entry.afterIssue e.id) := by
  simp only [issueColumn]

theorem issueColumn_issued (e : Entry) (s : State) :
    (issueColumn e s).issued = s.issued ++
      [{ source := e.source, kind := e.kind, size := e.size, address := e.address, buffer := e.buffer,
         sequence := e.sequence, ends := dataStart s e.kind + busTimeOf e.size }] := by
  simp only [issueColumn]

theorem issueColumn_keeps (e : Entry) (s : State) :
    (issueColumn e s).wdb = s.wdb ∧ (issueColumn e s).nextEntry = s.nextEntry
      ∧ (issueColumn e s).bypassCap = s.bypassCap := by
  simp only [issueColumn, issueOnBus, modBank_wdb, modLayer_wdb, modCluster_wdb, modBank_nextEntry, modLayer_nextEntry,
    modCluster_nextEntry, modBank_bypassCap, modLayer_bypassCap, modCluster_bypassCap, and_self]

theorem issuePattern_queueView (s : State) :
    queueView (issuePattern s) = queueView s ∧ (issuePattern s).issued = s.issued := by
  unfold issuePattern
  split <;> simp [queueView, issueOnBus]

/-- The issue of any other choice leaves the queue, the issued list and the buffer. -/
theorem issue_queueView {c : Choice} (s : State) (other : ∀ e, c ≠ .column e) :
    queueView (issue c s) = queueView s ∧ (issue c s).issued = s.issued := by
  cases c with
  | openRow b row => exact ⟨rfl, rfl⟩
  | shut b => exact ⟨rfl, rfl⟩
  | column e => exact absurd rfl (other e)
  | renew l => exact ⟨rfl, rfl⟩
  | patternRead =>
    rw [issue]
    exact issuePattern_queueView s
  | park => simp [issue, issuePark, stopRenewTimers, queueView]

theorem HostPart.queueView {s t : State} (h : HostPart s t) : queueView t = queueView s ∧ t.issued = s.issued := by
  obtain ⟨_, _, _, _, _, rfl⟩ := h
  exact ⟨rfl, rfl⟩

theorem StreamPart.queueView {s t : State} (h : StreamPart s t) : queueView t = queueView s ∧ t.issued = s.issued := by
  obtain ⟨_, _, _, _, _, rfl⟩ := h
  exact ⟨rfl, rfl⟩

end Sys2Proof.Machine
end

section
/-! SUPPORT. The bypass law at each loud operation (R39, R40). -/

namespace Sys2Proof.Machine

/-- An entry passed over counts until its cap, where it becomes overdue (R40). -/
theorem Entry.Lawful.afterIssue {e : Entry} (x : Nat) (h : e.Lawful) : (e.afterIssue x).Lawful := by
  obtain ⟨bound, due⟩ := h
  cases overdue : e.overdue with
  | true =>
    have reached : e.bypass = e.cap := due.1 overdue
    simp [Entry.Lawful, Entry.afterIssue, overdue, reached]
  | false =>
    have below : e.bypass ≠ e.cap := fun reached => by simp [due.2 reached] at overdue
    by_cases older : e.id < x
    · simp only [Entry.Lawful, Entry.afterIssue, overdue, older, decide_true, Bool.not_false, Bool.and_self, if_true,
        Bool.false_or, Bool.true_and, decide_eq_true_eq]
      omega
    · simp [Entry.Lawful, Entry.afterIssue, overdue, older, bound, below]

theorem Entry.Fresh.lawful {s : State} {e : Entry} (fresh : e.Fresh s) (low : 1 ≤ s.bypassCap) : e.Lawful := by
  obtain ⟨_, bypass, cap, overdue⟩ := fresh
  have uncapped : 0 ≠ s.bypassCap := by omega
  simp [Entry.Lawful, bypass, cap, overdue, uncapped]

theorem BypassLaw.of_view {s t : State} (law : BypassLaw s) (same : queueView t = queueView s) : BypassLaw t := by
  simp only [queueView, Prod.mk.injEq] at same
  obtain ⟨paq, _, _, cap⟩ := same
  rw [BypassLaw, paq, cap]
  exact law

theorem BypassLaw.of_mem {s t : State} (law : BypassLaw s) (cap : t.bypassCap = s.bypassCap)
    (waiting : ∀ e ∈ t.paq, e.Lawful) : BypassLaw t := by
  obtain ⟨low, high, _⟩ := law
  rw [BypassLaw, cap]
  exact ⟨low, high, waiting⟩

theorem issue_bypassLaw {c : Choice} {s : State} (_ : Admissible s c) (law : BypassLaw s) : BypassLaw (issue c s) := by
  by_cases column : ∃ e, c = .column e
  · obtain ⟨x, rfl⟩ := column
    refine law.of_mem (issueColumn_keeps x s).2.2 fun e he => ?_
    rw [issue, issueColumn_paq] at he
    obtain ⟨g, hg, rfl⟩ := List.mem_map.1 he
    exact (law.2.2 g (List.mem_filter.1 hg).1).afterIssue x.id
  · exact law.of_view (issue_queueView s fun e is => column ⟨e, is⟩).1

theorem admitNext_bypassLaw (s : State) (law : BypassLaw s) : BypassLaw (admitNext s) := by
  have ⟨low, _, lawful⟩ := law
  have cap : (admitNext s).bypassCap = s.bypassCap := by
    obtain ⟨_, _, _, _, _, _, _, _, frame⟩ := admitNext_admitPart s
    rw [frame]
  have joined {e : Entry} (fresh : e.Fresh s) (paq : (admitNext s).paq = s.paq ++ [e]) :
      ∀ f ∈ (admitNext s).paq, f.Lawful := fun f hf => by
    rw [paq, List.mem_append, List.mem_singleton] at hf
    obtain older | rfl := hf
    · exact lawful f older
    · exact fresh.lawful low
  refine law.of_mem cap ?_
  cases admitNext_admitted s with
  | none paq => exact paq ▸ lawful
  | read e fresh _ _ paq => exact joined fresh paq
  | write e _ _ fresh _ _ _ paq => exact joined fresh paq

theorem startTransferReset_bypassLaw (s : State) (law : BypassLaw s) : BypassLaw (startTransferReset s) := by
  obtain ⟨_, _, _, _, _, _, _, _, _, _, frame⟩ := startTransferReset_frame s
  rw [frame]
  exact law.of_mem rfl fun _ h => nomatch h

theorem EndPart.bypassLaw {s t : State} (h : EndPart s t) (law : BypassLaw s) : BypassLaw t := by
  obtain ⟨_, _, _, _, _, _, _, _, _, _, _, rfl⟩ := h
  exact law

theorem reset_bypassLaw : BypassLaw State.reset := by decide

theorem Loud.bypassLaw {f : State → State} (op : Loud f) (s : State) (law : BypassLaw s) : BypassLaw (f s) := by
  cases op with
  | submit c k => exact law.of_view (submitTo_hostPart c k s).queueView.1
  | enable c => exact law.of_view (enableChannel_hostPart c s).queueView.1
  | resume c => exact law.of_view (resumeChannel_hostPart c s).queueView.1
  | cancel c => exact law.of_view (cancelChannel_hostPart c s).queueView.1
  | pop => exact law.of_view (popRecord_hostPart s).queueView.1
  | transferReset => exact startTransferReset_bypassLaw s law
  | deviceReset => exact reset_bypassLaw
  | pin => exact reset_bypassLaw
  | arrival p w m => exact law.of_view (arrive_streamPart p w m s).queueView.1
  | placement p => exact law.of_view (placeWord_streamPart p s).queueView.1
  | admission => exact admitNext_bypassLaw s law
  | slot => exact commandSlot_keeps Quiet.bypassLaw issue_bypassLaw law
  | ret flips => exact (takeReturn_endPart flips s).bypassLaw law
  | sent => exact (takeSent_endPart s).bypassLaw law

/-- Settles O57: an entry joins the queue with a count of 0 below its cap, and the issue of a column command counts an older entry
only while it is not overdue. -/
theorem bypassLawKept : Obligations.BypassLawKept := fun _ _ => law_kept Quiet.bypassLaw Loud.bypassLaw

end Sys2Proof.Machine
end

section
/-! SUPPORT. Who holds the write data buffer's slots: the entries that join, move to the issued list, leave it, and are discarded
(R35, R42, R43, R66, R67). -/

namespace Sys2Proof.Machine

/-! ### The entries that hold a slot -/

/-- An entry taken out of a queue in order of age, and put at the front: the same entries. -/
theorem perm_takeOut {l : List Entry} {x : Entry} (order : l.Pairwise fun e f => e.id < f.id) (hx : x ∈ l) :
    l.Perm (x :: l.filter fun f => f.id ≠ x.id) := by
  induction l with
  | nil => exact absurd hx List.not_mem_nil
  | cons y ys ih =>
    obtain ⟨young, order⟩ := List.pairwise_cons.1 order
    rcases List.mem_cons.1 hx with rfl | hx
    · have kept : (x :: ys).filter (fun f => f.id ≠ x.id) = ys := by
        have others : ∀ f ∈ ys, decide (f.id ≠ x.id) = true := fun f hf =>
          decide_eq_true (Nat.ne_of_gt (young f hf))
        rw [List.filter_cons_of_neg (by simp), List.filter_eq_self.2 others]
      rw [kept]
    · have other : decide (y.id ≠ x.id) = true := decide_eq_true (Nat.ne_of_lt (young x hx))
      rw [List.filter_cons_of_pos (p := fun f : Entry => decide (f.id ≠ x.id)) other]
      exact ((ih order hx).cons y).trans (.swap x y _)

/-- The issue of a waiting access hands its slot from the queue to the issued list. -/
theorem issueColumn_wdbHolders {x : Entry} {s : State} (order : s.paq.Pairwise fun e f => e.id < f.id) (hx : x ∈ s.paq)
    (i : Fin 16) : wdbHolders (issueColumn x s) i = wdbHolders s i := by
  have aged : (fun e : Entry => decide (e.buffer = .wdb i)) ∘ Entry.afterIssue x.id = fun e => decide (e.buffer = .wdb i) :=
    rfl
  have counts := ((perm_takeOut order hx).filter fun e => decide (e.buffer = .wdb i)).length_eq
  rw [wdbHolders, wdbHolders, issueColumn_paq, issueColumn_issued, List.filter_map, aged, List.length_map, counts,
    List.filter_append, List.length_append]
  by_cases own : x.buffer = .wdb i
  · simp only [List.filter_cons, own, decide_true, if_true, List.length_cons, List.filter_nil, List.length_nil]
    omega
  · simp [own]

/-! ### The law, clause by clause -/

theorem issueColumn_ageLaw {x : Entry} {s : State} (law : AgeLaw s) : AgeLaw (issueColumn x s) := by
  obtain ⟨order, young⟩ := law
  rw [AgeLaw, issueColumn_paq, (issueColumn_keeps x s).2.1, List.pairwise_map]
  refine ⟨order.filter _, fun e he => ?_⟩
  obtain ⟨g, hg, rfl⟩ := List.mem_map.1 he
  exact young g (List.mem_filter.1 hg).1

theorem issue_wdbLaw {c : Choice} {s : State} (may : Admissible s c) (law : WdbLaw s) : WdbLaw (issue c s) := by
  by_cases column : ∃ e, c = .column e
  · obtain ⟨x, rfl⟩ := column
    have ⟨age, waiting, issued, held⟩ := law
    have inQueue : x ∈ s.paq := may.1
    refine ⟨issueColumn_ageLaw age, fun e he => ?_, fun e he => ?_, fun i => ?_⟩
    · rw [issue, issueColumn_paq] at he
      obtain ⟨g, hg, rfl⟩ := List.mem_map.1 he
      exact waiting g (List.mem_filter.1 hg).1
    · rw [issue, issueColumn_issued, List.mem_append, List.mem_singleton] at he
      obtain older | rfl := he
      · exact issued e older
      · exact waiting x inQueue
    · rw [issue, issueColumn_wdbHolders age.1 inQueue, (issueColumn_keeps x s).1]
      exact held i
  · have ⟨view, issued⟩ := issue_queueView s fun e is => column ⟨e, is⟩
    simp only [queueView, Prod.mk.injEq] at view
    obtain ⟨paq, next, wdb, _⟩ := view
    exact law.of_same paq next issued wdb

/-- An entry that joins the tail younger than all keeps the order of age. -/
theorem AgeLaw.append {s t : State} {e : Entry} (law : AgeLaw s) (id : e.id = s.nextEntry) (paq : t.paq = s.paq ++ [e])
    (next : t.nextEntry = s.nextEntry + 1) : AgeLaw t := by
  obtain ⟨order, young⟩ := law
  rw [AgeLaw, paq, next]
  refine ⟨List.pairwise_append.2 ⟨order, List.pairwise_singleton _ _, fun f hf g hg => ?_⟩, fun f hf => ?_⟩
  · rw [List.mem_singleton.1 hg, id]
    exact young f hf
  · rcases List.mem_append.1 hf with older | new
    · exact Nat.lt_trans (young f older) (Nat.lt_succ_self _)
    · rw [List.mem_singleton.1 new, id]
      exact Nat.lt_succ_self _

theorem wdbHolders_append {s t : State} {e : Entry} (paq : t.paq = s.paq ++ [e]) (issued : t.issued = s.issued)
    (i : Fin 16) : wdbHolders t i = wdbHolders s i + if e.buffer = .wdb i then 1 else 0 := by
  rw [wdbHolders, wdbHolders, paq, issued, List.filter_append, List.length_append]
  by_cases own : e.buffer = .wdb i
  · simp only [List.filter_cons, own, decide_true, if_true, List.length_cons, List.filter_nil, List.length_nil]
    omega
  · simp [own]

theorem Admitted.wdbLaw {s t : State} (h : Admitted s t) (issued : t.issued = s.issued) (law : WdbLaw s) : WdbLaw t := by
  have ⟨age, waiting, out, held⟩ := law
  have fits {e : Entry} (own : bufferFits e.kind e.buffer = true) (paq : t.paq = s.paq ++ [e]) :
      ∀ f ∈ t.paq, bufferFits f.kind f.buffer = true := fun f hf => by
    rw [paq, List.mem_append, List.mem_singleton] at hf
    obtain older | rfl := hf
    · exact waiting f older
    · exact own
  cases h with
  | none paq next wdb => exact law.of_same paq next issued wdb
  | read e fresh kind notWdb paq next wdb =>
    have own : bufferFits e.kind e.buffer = true := by
      rw [kind]
      cases buffer : e.buffer
      case wdb i => exact absurd buffer (notWdb i)
      all_goals rfl
    refine ⟨age.append fresh.1 paq next, fits own paq, issued ▸ out, fun i => ?_⟩
    rw [wdbHolders_append paq issued, if_neg (notWdb i), wdb]
    exact held i
  | write e i words fresh kind buffer free paq next wdb =>
    refine ⟨age.append fresh.1 paq next, fits (by rw [kind, buffer]; rfl) paq, issued ▸ out, fun j => ?_⟩
    rw [wdbHolders_append paq issued, buffer, wdb, getElem_set_fin, held j]
    by_cases same : i = j
    · subst same
      simp [free]
    · simp [same]

/-! ### The ends of data phases -/

/-- The parts of the state that the law of the buffers reads. -/
def bufferView (s : State) := (s.paq, s.nextEntry, s.issued, s.wdb)

theorem WdbLaw.of_view {s t : State} (law : WdbLaw s) (same : bufferView t = bufferView s) : WdbLaw t := by
  simp only [bufferView, Prod.mk.injEq] at same
  obtain ⟨paq, next, issued, wdb⟩ := same
  exact law.of_same paq next issued wdb

theorem RunPart.bufferView {s t : State} (h : RunPart s t) : bufferView t = bufferView s := by
  obtain ⟨_, _, _, _, rfl⟩ := h
  rfl

theorem HostPart.bufferView {s t : State} (h : HostPart s t) : bufferView t = bufferView s := by
  obtain ⟨_, _, _, _, _, rfl⟩ := h
  rfl

theorem StreamPart.bufferView {s t : State} (h : StreamPart s t) : bufferView t = bufferView s := by
  obtain ⟨_, _, _, _, _, rfl⟩ := h
  rfl

theorem Quiet.bufferView {s t : State} (h : Quiet s t) : bufferView t = bufferView s := by
  rw [Machine.bufferView, h.paq, h.nextEntry, h.issued, h.wdb, Machine.bufferView]

theorem recordClass_quiet (k : WordClass) (burst : Nat) (src : Source) (s : State) :
    Quiet s (recordClass k burst src s) := by
  cases k <;> exact .of_view rfl

theorem windowReturn_quiet (e : Issued) (k : WordClass) (words : List Word) (s : State) :
    Quiet s (windowReturn e k words s) :=
  .ite (fun _ => endWindow_quiet _ s) fun _ => (Quiet.modWindow _).trans (endWindow_quiet _ _)

theorem scrubReturn_quiet (k : WordClass) (words : List Word) (s : State) : Quiet s (scrubReturn k words s) := by
  unfold scrubReturn
  split
  · exact .ite (fun _ => .modScrub _) fun _ => scrubStepEnd_quiet s
  · exact .rfl

theorem channelReturn_runPart (c : Fin 5) (i : Fin 8) (e : Issued) (k : WordClass) (words : List Word) (s : State) :
    RunPart s (channelReturn c i e k words s) := (RunPart.modChannel c _).trans (settleChannel_runPart c _)

theorem deliver_bufferView (e : Issued) (k : WordClass) (words : List Word) (s : State) :
    bufferView (deliver e k words s) = bufferView s := by
  unfold deliver
  split
  · exact (channelReturn_runPart _ _ e k words s).bufferView
  · exact (windowReturn_quiet e k words s).bufferView
  · exact (scrubReturn_quiet k words s).bufferView
  · rfl

theorem channelSent_runPart (c : Fin 5) (z : Size) (s : State) : RunPart s (channelSent c z s) := by
  unfold channelSent
  split
  · exact (RunPart.modChannel c _).trans (.modSlot _ _)
  · exact (RunPart.modChannel c _).trans (settleChannel_runPart c _)

theorem tellSent_bufferView (e : Issued) (s : State) : bufferView (tellSent e s) = bufferView s := by
  unfold tellSent
  split
  · exact (channelSent_runPart _ _ s).bufferView
  · exact (endWindow_quiet _ s).bufferView
  · split
    · exact (scrubStepEnd_quiet s).bufferView
    · rfl

/-- A return takes the head off the issued list, and touches neither the queue nor the buffers besides. -/
theorem takeReturn_bufferView {flips : List StackWord} {s : State} {e : Issued} {rest : List Issued}
    (ended : endedHead s .read = some (e, rest)) :
    bufferView (takeReturn flips s) = bufferView { s with issued := rest } := by
  simp only [takeReturn, ended]
  exact (endTransferReset_quiet _).bufferView.trans
    ((deliver_bufferView _ _ _ _).trans (recordClass_quiet _ _ _ _).bufferView)

/-- A data sent takes the head off the issued list and frees its slot. -/
theorem takeSent_bufferView {s : State} {e : Issued} {rest : List Issued} (ended : endedHead s .write = some (e, rest)) :
    bufferView (takeSent s) = bufferView (releaseWdb e.buffer { s with issued := rest }) := by
  simp only [takeSent, ended]
  have stored : bufferView (releaseWdb e.buffer (storeWords e.address (wdbWords s e.buffer) { s with issued := rest })) =
      bufferView (releaseWdb e.buffer { s with issued := rest }) := by
    cases e.buffer <;> rfl
  exact (endTransferReset_quiet _).bufferView.trans ((tellSent_bufferView _ _).trans stored)

theorem wdbHolders_head {s : State} {e : Issued} {rest : List Issued} (head : s.issued = e :: rest) (i : Fin 16) :
    wdbHolders s i = wdbHolders { s with issued := rest } i + if e.buffer = .wdb i then 1 else 0 := by
  rw [wdbHolders, wdbHolders, head]
  by_cases own : e.buffer = .wdb i
  · simp only [List.filter_cons, own, decide_true, if_true, List.length_cons]
    omega
  · simp [own]

theorem takeReturn_wdbLaw (flips : List StackWord) (s : State) (law : WdbLaw s) : WdbLaw (takeReturn flips s) := by
  cases ended : endedHead s .read with
  | none =>
    simp only [takeReturn, ended]
    exact law
  | some taken =>
    obtain ⟨e, rest⟩ := taken
    have ⟨age, waiting, issued, held⟩ := law
    obtain ⟨head, kind, _⟩ := endedHead_some ended
    have notWdb (i : Fin 16) : e.buffer ≠ .wdb i := fun is => by
      have := issued e (head ▸ List.mem_cons_self)
      rw [kind, is] at this
      cases this
    refine WdbLaw.of_view (s := { s with issued := rest }) ?_ (takeReturn_bufferView ended)
    refine ⟨age, waiting, fun f hf => issued f (head ▸ List.mem_cons_of_mem _ hf), fun i => ?_⟩
    have before := wdbHolders_head head i
    rw [if_neg (notWdb i)] at before
    exact before.symm.trans (held i)

theorem takeSent_wdbLaw (s : State) (law : WdbLaw s) : WdbLaw (takeSent s) := by
  cases ended : endedHead s .write with
  | none =>
    simp only [takeSent, ended]
    exact law
  | some taken =>
    obtain ⟨e, rest⟩ := taken
    have ⟨age, waiting, issued, held⟩ := law
    obtain ⟨head, kind, _⟩ := endedHead_some ended
    have fits := issued e (head ▸ List.mem_cons_self)
    rw [kind] at fits
    cases buffer : e.buffer with
    | wdb i =>
      refine WdbLaw.of_view ?_ (takeSent_bufferView ended)
      rw [buffer]
      refine ⟨age, waiting, fun f hf => issued f (head ▸ List.mem_cons_of_mem _ hf), fun j => ?_⟩
      have before := wdbHolders_head head j
      have now : wdbHolders (releaseWdb (.wdb i) { s with issued := rest }) j = wdbHolders { s with issued := rest } j := rfl
      have slot : (releaseWdb (.wdb i) { s with issued := rest }).wdb[j] = if i = j then none else s.wdb[j] :=
        getElem_set_fin _ _ _ _
      rw [now, slot]
      rw [buffer, held j] at before
      by_cases same : i = j
      · subst same
        have atMostOne : (if s.wdb[i].isSome = true then 1 else 0) ≤ 1 := by split <;> decide
        simp only [if_true, Option.isSome_none, Bool.false_eq_true, if_false] at before ⊢
        omega
      · have other : Buffer.wdb i ≠ .wdb j := fun h => same (Buffer.wdb.inj h)
        simp only [other, same, if_false] at before ⊢
        exact before.symm
    | returnSlot c k => rw [buffer] at fits; cases fits
    | window => rw [buffer] at fits; cases fits
    | scrubRecord => rw [buffer] at fits; cases fits

/-! ### The discarded entries -/

theorem discardEntry_wdb (s : State) (e : Entry) (i : Fin 16) :
    (discardEntry s e).wdb[i] = if e.buffer = .wdb i then none else s.wdb[i] := by
  have kept : (discardEntry s e).wdb = (releaseWdb e.buffer s).wdb := by
    unfold discardEntry
    dsimp only
    split <;> split <;> rfl
  rw [kept]
  unfold releaseWdb
  split
  case h_1 j buffer =>
    dsimp only
    rw [getElem_set_fin, buffer]
    by_cases same : j = i <;> simp [same]
  case h_2 notWdb => rw [if_neg (notWdb i)]

/-- A slot is free after the discards if a discarded write held it, and else as it was (R43). -/
theorem discardEntries_wdb (es : List Entry) (s : State) (i : Fin 16) :
    ((∃ e ∈ es, e.buffer = .wdb i) → (es.foldl discardEntry s).wdb[i] = none)
      ∧ ((∀ e ∈ es, e.buffer ≠ .wdb i) → (es.foldl discardEntry s).wdb[i] = s.wdb[i]) := by
  induction es generalizing s with
  | nil => exact ⟨fun ⟨_, h, _⟩ => absurd h List.not_mem_nil, fun _ => rfl⟩
  | cons e es ih =>
    obtain ⟨freed, kept⟩ := ih (discardEntry s e)
    rw [List.foldl_cons]
    refine ⟨fun ⟨f, hf, own⟩ => ?_, fun others => ?_⟩
    · by_cases later : ∃ g ∈ es, g.buffer = .wdb i
      · exact freed later
      · have first : e.buffer = .wdb i := by
          rcases List.mem_cons.1 hf with rfl | hf
          · exact own
          · exact absurd ⟨f, hf, own⟩ later
        rw [kept fun g hg is => later ⟨g, hg, is⟩, discardEntry_wdb, if_pos first]
    · rw [kept fun g hg => others g (List.mem_cons_of_mem _ hg), discardEntry_wdb, if_neg (others e List.mem_cons_self)]

theorem windowAtTransferReset_quiet (waiting : Bool) (s : State) : Quiet s (windowAtTransferReset waiting s) :=
  .ite (fun _ => .ite (fun _ => endWindow_quiet _ s) fun _ => .rfl) fun _ => .modWindow _

theorem startTransferReset_bufferView (s : State) :
    bufferView (startTransferReset s) = ([], s.nextEntry, s.issued, (s.paq.foldl discardEntry s).wdb) := by
  obtain ⟨wdb, channels, discarded⟩ := discardEntries_discardPart s.paq s
  rw [startTransferReset, (endTransferReset_quiet _).bufferView, (windowAtTransferReset_quiet _ _).bufferView]
  simp only [discardWaiting, discarded]
  rfl

theorem startTransferReset_wdbLaw (s : State) (law : WdbLaw s) : WdbLaw (startTransferReset s) := by
  obtain ⟨_, _, issued, held⟩ := law
  have view := startTransferReset_bufferView s
  simp only [bufferView, Prod.mk.injEq] at view
  obtain ⟨paq, _, out, wdb⟩ := view
  have none : ∀ e : Entry, e ∉ (startTransferReset s).paq := fun e he => by
    rw [paq] at he
    exact absurd he List.not_mem_nil
  refine ⟨⟨paq ▸ .nil, fun e he => absurd he (none e)⟩, fun e he => absurd he (none e), out ▸ issued, fun i => ?_⟩
  have before := held i
  obtain ⟨freed, kept⟩ := discardEntries_wdb s.paq s i
  rw [wdbHolders, paq, out, wdb]
  rw [wdbHolders] at before
  by_cases discarded : ∃ e ∈ s.paq, e.buffer = .wdb i
  · have some : 0 < (s.paq.filter fun e => e.buffer = .wdb i).length := by
      obtain ⟨e, he, own⟩ := discarded
      exact List.length_pos_of_mem (List.mem_filter.2 ⟨he, decide_eq_true own⟩)
    have atMostOne : (if s.wdb[i].isSome = true then 1 else 0) ≤ 1 := by split <;> decide
    rw [freed discarded]
    simp only [List.filter_nil, List.length_nil, Option.isSome_none, Bool.false_eq_true, if_false]
    omega
  · have others : ∀ e ∈ s.paq, e.buffer ≠ .wdb i := fun e he own => discarded ⟨e, he, own⟩
    have unheld : (s.paq.filter fun e => e.buffer = .wdb i) = [] :=
      List.filter_eq_nil_iff.2 fun e he => by simpa using others e he
    rw [kept others, ← before, unheld, List.filter_nil]

/-! ### Every loud operation -/

theorem reset_wdbLaw : WdbLaw State.reset := by
  have waiting : ∀ e : Entry, e ∉ State.reset.paq := fun _ => List.not_mem_nil
  have issued : ∀ e : Issued, e ∉ State.reset.issued := fun _ => List.not_mem_nil
  refine ⟨⟨.nil, fun e he => absurd he (waiting e)⟩, fun e he => absurd he (waiting e), fun e he => absurd he (issued e),
    fun i => ?_⟩
  simp [wdbHolders, State.reset]

theorem Loud.wdbLaw {f : State → State} (op : Loud f) (s : State) (law : WdbLaw s) : WdbLaw (f s) := by
  cases op with
  | submit c k => exact law.of_view (submitTo_hostPart c k s).bufferView
  | enable c => exact law.of_view (enableChannel_hostPart c s).bufferView
  | resume c => exact law.of_view (resumeChannel_hostPart c s).bufferView
  | cancel c => exact law.of_view (cancelChannel_hostPart c s).bufferView
  | pop => exact law.of_view (popRecord_hostPart s).bufferView
  | transferReset => exact startTransferReset_wdbLaw s law
  | deviceReset => exact reset_wdbLaw
  | pin => exact reset_wdbLaw
  | arrival p w m => exact law.of_view (arrive_streamPart p w m s).bufferView
  | placement p => exact law.of_view (placeWord_streamPart p s).bufferView
  | admission =>
    refine (admitNext_admitted s).wdbLaw ?_ law
    obtain ⟨_, _, _, _, _, _, _, _, frame⟩ := admitNext_admitPart s
    rw [frame]
  | slot => exact commandSlot_keeps Quiet.wdbLaw issue_wdbLaw law
  | ret flips => exact takeReturn_wdbLaw flips s law
  | sent => exact takeSent_wdbLaw s law

/-- Settles O60: an admitted write takes a free slot, its issue hands the slot from the queue to the issued list, its data sent
frees it, and so does its discard at a transfer reset. -/
theorem wdbLawKept : Obligations.WdbLawKept := fun _ _ => law_kept Quiet.wdbLaw Loud.wdbLaw

end Sys2Proof.Machine
end

section
/-! SUPPORT. What an admission and an issue leave of the slots, the channels, the completions, the ports and the window lists. -/

namespace Sys2Proof.Machine

/-- The part of a quiet change that does not speak of the access queue and its buffers. -/
structure Calm (s t : State) : Prop where
  contents : ContentsLaw s → ContentsLaw t
  openWindow : ∀ l : Fin 2, t.layerRecords[l].openWindow.length ≤ s.layerRecords[l].openWindow.length
  slot : ∀ k : Fin 64, t.slots[k].owner = s.slots[k].owner ∧ t.slots[k].holder = s.slots[k].holder
  channel : ∀ c : Fin 5, t.channels[c].queue = s.channels[c].queue ∧ t.channels[c].current = s.channels[c].current
    ∧ t.channels[c].state.isBusy = s.channels[c].state.isBusy
  cq : t.cq.queue = s.cq.queue
  fifo : ∀ p : Fin 4, t.ports[p].fifo.length ≤ s.ports[p].fifo.length

theorem Quiet.calm {s t : State} (h : Quiet s t) : Calm s t :=
  ⟨h.contents, h.openWindow, h.slot, h.channel, h.cq, h.fifo⟩

theorem Calm.rfl {s : State} : Calm s s := Quiet.rfl.calm

theorem Calm.trans {s t u : State} (h : Calm s t) (k : Calm t u) : Calm s u where
  contents law := k.contents (h.contents law)
  openWindow l := Nat.le_trans (k.openWindow l) (h.openWindow l)
  slot j := ⟨(k.slot j).1.trans (h.slot j).1, (k.slot j).2.trans (h.slot j).2⟩
  channel c :=
    have ⟨queue, current, busy⟩ := h.channel c
    have ⟨queue', current', busy'⟩ := k.channel c
    ⟨queue'.trans queue, current'.trans current, busy'.trans busy⟩
  cq := k.cq.trans h.cq
  fifo p := Nat.le_trans (k.fifo p) (h.fifo p)

/-- The queue, the issued list and the write data buffer are no part of a calm change. -/
theorem Calm.queues {s : State} (paq : List Entry) (next : Nat) (wdb : Vector (Option (List Word)) 16)
    (issued : List Issued) : Calm s { s with paq := paq, nextEntry := next, wdb := wdb, issued := issued } :=
  { Calm.rfl (s := s) with }

theorem Calm.offered {s : State} (c : Fin 5) (f : Channel → Channel)
    (keeps : ∀ ch, (f ch).queue = ch.queue ∧ (f ch).current = ch.current ∧ (f ch).state = ch.state := by
      exact fun _ => ⟨rfl, rfl, rfl⟩) : Calm s (s.modChannel c f) :=
  have ⟨queue, current, state⟩ := keeps s.channels[c]
  (Quiet.modChannel c f queue current (congrArg _ state)).calm

/-! ### An admission -/

theorem scrubSees_calm (burst : Nat) (s : State) : Calm s (scrubSees burst s) := by
  unfold scrubSees
  split
  · exact .rfl
  · exact (Quiet.ite (fun _ => .modScrub _) fun _ => .rfl).calm
  · exact (Quiet.ite (fun _ => ((Quiet.modScrub _).trans (.modArbiter _)).trans (scrubStepEnd_quiet _)) fun _ => .rfl).calm

theorem enqueue_calm (src : Source) (o : Offer) (b : Buffer) (s : State) : Calm s (enqueue src o b s) :=
  .queues _ _ s.wdb s.issued

theorem enqueueWrite_calm (src : Source) (o : Offer) (words : List Word) (s : State) :
    Calm s (enqueueWrite src o words s) := by
  unfold enqueueWrite
  split
  · exact .rfl
  · rename_i i _
    have taken : Calm s (enqueue src o (.wdb i) { s with wdb := s.wdb.set i (some words) }) :=
      (Calm.queues s.paq s.nextEntry _ s.issued).trans (enqueue_calm src o (.wdb i) _)
    dsimp only
    split
    · exact taken
    · exact taken.trans (scrubSees_calm _ _)

theorem admitRead_calm (c : Fin 5) (o : Offer) (s : State) : Calm s (admitRead c o s) := by
  unfold admitRead
  split
  · exact .rfl
  · exact (Calm.offered c _).trans (enqueue_calm _ _ _ _)

theorem admitInbound_calm (c : Fin 5) (o : Offer) (d : Slot) (s : State) : Calm s (admitInbound c o d s) := by
  cases bound : portOfChannel c with
  | none =>
    simp only [admitInbound, bound]
    exact .rfl
  | some p =>
    cases takes : inboundTake d.stopOnMark (wordsOf o.size) (channelFifo s c) with
    | none =>
      simp only [admitInbound, bound, takes]
      exact .rfl
    | some taken =>
      rw [admitInbound_eq bound takes]
      have shorter := Quiet.modPort (s := s) p (fun q => { q with fifo := q.fifo.drop taken.1 })
        ((List.drop_suffix _ _).length_le)
      refine (shorter.calm.trans (.offered c _ fun ch => ?_)).trans (enqueueWrite_calm _ _ _ _)
      split <;> exact ⟨rfl, rfl, rfl⟩

theorem admitCopyWrite_calm (c : Fin 5) (o : Offer) (s : State) : Calm s (admitCopyWrite c o s) := by
  unfold admitCopyWrite
  split
  · exact .rfl
  · split
    · exact (Calm.offered c _).trans (enqueueWrite_calm _ _ _ _)
    · exact .rfl

theorem admitChannel_calm (c : Fin 5) (s : State) : Calm s (admitChannel c s) := by
  unfold admitChannel
  split
  · refine Calm.trans ?_ (offerNext_quiet c _).calm
    split
    · exact admitRead_calm c _ s
    · exact admitInbound_calm c _ _ s
    · exact admitCopyWrite_calm c _ s
    · exact (Calm.offered c _).trans (enqueueWrite_calm _ _ _ _)
  · exact .rfl

theorem countScrubWait_quiet (s : State) : Quiet s (countScrubWait s) := .ite (fun _ => .modArbiter _) fun _ => .rfl

theorem admitWindow_calm (s : State) : Calm s (admitWindow s) := by
  unfold admitWindow
  split
  · exact .rfl
  · split
    · exact (Quiet.modWindow _).calm.trans (enqueue_calm _ _ _ _)
    · exact (Quiet.modWindow _).calm.trans (enqueueWrite_calm _ _ _ _)

theorem admitScrub_calm (s : State) : Calm s (admitScrub s) := by
  unfold admitScrub
  split
  · exact ((Quiet.modArbiter _).trans (.modScrub _)).calm.trans (enqueue_calm _ _ _ _)
  · exact ((Quiet.modArbiter _).trans (.modScrub _)).calm.trans (enqueueWrite_calm _ _ _ _)
  · exact .rfl

theorem admitNext_calm (s : State) : Calm s (admitNext s) := by
  unfold admitNext
  split
  · unfold admitFrom
    split
    · exact (countScrubWait_quiet s).calm.trans (admitWindow_calm _)
    · exact admitScrub_calm s
    · exact ((countScrubWait_quiet s).trans (.modArbiter _)).calm.trans (admitChannel_calm _ _)
  · exact .rfl

/-! ### The issue of a choice -/

theorem issueOnBus_quiet (k : Kind) (c : Fin 8) (ends : Nat) (s : State) : Quiet s (issueOnBus k c ends s) := by
  have cluster : Quiet s (s.modCluster c fun r => { r with lastColumn := some s.mclk }) := .of_view rfl
  exact (cluster.trans (.modLayer _ (fun l => { l with lastColumn := some (s.mclk, k) }) (Nat.le_refl _))).trans
    (.of_view rfl)

theorem issueColumn_calm (e : Entry) (s : State) : Calm s (issueColumn e s) :=
  ((issueOnBus_quiet _ _ _ s).trans (.modBank _ _)).calm.trans (.queues _ _ _ _)

theorem issuePattern_quiet (s : State) : Quiet s (issuePattern s) := by
  unfold issuePattern
  split
  · exact (issueOnBus_quiet _ _ _ s).trans (.modMemPort _)
  · exact .rfl

theorem issuePark_quiet (s : State) : Quiet s (issuePark s) := by
  have stopped := (stopRenewTimers_quiet s).trans (.modMemPort fun m => { m with state := .parked })
  rw [issuePark]
  generalize (stopRenewTimers s).modMemPort _ = u at stopped
  have parked : Quiet u (u.modStack fun m => { m with mode := .parked }) := .of_view rfl
  exact (stopped.trans parked).trans (.raise _)

theorem modRenew_calm (l : Fin 2) (f : Renew → Renew) (s : State) : Calm s (s.modRenew l f) :=
  { Calm.rfl (s := s) with }

theorem issueRenew_calm (l : Fin 2) (s : State) : Calm s (issueRenew l s) :=
  (Quiet.modLayer l (fun r => { r with renewing := some (s.param .rnw) }) (Nat.le_refl _)).calm.trans (modRenew_calm l _ _)

end Sys2Proof.Machine
end

section
/-! SUPPORT. The bounds of the queues and the form of the contents at each loud operation (R7, R25, R94, R131, R167). -/

namespace Sys2Proof.Machine

/-- The bounds that a run's events can reach: the completion queue and the channels' queues. -/
def RunBounds (s : State) : Prop := s.cq.queue.length ≤ 32 ∧ ∀ c : Fin 5, s.channels[c].queue.length ≤ 8

theorem RunBounds.modChannel {s : State} (h : RunBounds s) (c : Fin 5) (f : Channel → Channel)
    (shorter : (f s.channels[c]).queue.length ≤ 8) : RunBounds (s.modChannel c f) := by
  refine ⟨h.1, fun d => ?_⟩
  rw [modChannel_channel]
  split
  · exact shorter
  · exact h.2 d

theorem Quiet.runBounds {s t : State} (q : Quiet s t) (h : RunBounds s) : RunBounds t :=
  ⟨q.cq ▸ h.1, fun c => (q.channel c).1 ▸ h.2 c⟩

theorem RunBounds.closeRun {s : State} (h : RunBounds s) (c : Fin 5) (k : Fin 64) : RunBounds (closeRun c k s) :=
  RunBounds.modChannel (s := s.modSlot k _) h c _ (by exact h.2 c)

theorem RunBounds.raise {s : State} (h : RunBounds s) (f : Flag) : RunBounds (s.raise f) := h

theorem RunBounds.haltChannel {s : State} (h : RunBounds s) (c : Fin 5) : RunBounds (haltChannel c s) :=
  (h.modChannel c (fun ch => { ch with state := .halted }) (h.2 c)).raise _

/-- A record is posted only where the completion queue has a place. -/
theorem RunBounds.writeOutcome {s : State} (h : RunBounds s) (c : Fin 5) (k : Fin 64) (r : Result) {next : State → State}
    (goesOn : ∀ u, RunBounds u → RunBounds (next u)) : RunBounds (writeOutcome c k r next s) := by
  have put : RunBounds (putOutcome c k r s) := h
  unfold Machine.writeOutcome
  refine iteInduction (fun _ => iteInduction (fun place => ?_) fun _ => ?_) fun _ => goesOn _ put
  · refine goesOn _ ⟨?_, put.2⟩
    have room : s.cq.queue.length < 32 := of_decide_eq_true place
    have posted : (postRecord c k (putOutcome c k r s)).cq.queue.length = s.cq.queue.length + 1 := List.length_append
    omega
  · exact put.modChannel c _ (by exact put.2 c)

theorem RunBounds.setUpRun {s : State} (h : RunBounds s) (c : Fin 5) (k : Fin 64) : RunBounds (setUpRun c k s) :=
  RunBounds.modChannel (s := s.modSlot k _) h c _ (by exact h.2 c)

theorem RunBounds.beginRun {s : State} (h : RunBounds s) (c : Fin 5) (k : Fin 64) : RunBounds (beginRun c k s) := by
  unfold Machine.beginRun
  split
  · exact (h.setUpRun c k).writeOutcome c k _ fun u hu => (hu.closeRun c k).haltChannel c
  · exact (offerNext_quiet c _).runBounds (h.setUpRun c k)

theorem RunBounds.takeNext {s : State} (h : RunBounds s) (c : Fin 5) : RunBounds (takeNext c s) := by
  cases head : s.channels[c].queue with
  | nil =>
    rw [takeNext_nil head]
    exact h.modChannel c _ (by exact h.2 c)
  | cons k rest =>
    rw [takeNext_cons head]
    have bound := h.2 c
    rw [head] at bound
    exact (h.modChannel c _ (Nat.le_of_succ_le bound)).beginRun c k

theorem RunBounds.followLink {s : State} (h : RunBounds s) (c : Fin 5) (l : Option (Fin 64)) :
    RunBounds (followLink c l s) := by
  unfold Machine.followLink
  split
  · exact h.takeNext c
  · split
    · exact h.beginRun c _
    · exact ((h.modChannel c (fun ch => { ch with lastRefused := some _ }) (h.2 c)).raise _).takeNext c

theorem RunBounds.finishRun {s : State} (h : RunBounds s) (c : Fin 5) (k : Fin 64) : RunBounds (finishRun c k s) := by
  have closed := h.closeRun c k
  unfold Machine.finishRun
  split
  · exact closed.takeNext c
  · split
    · exact closed.haltChannel c
    · exact closed.followLink c _

theorem RunBounds.endRun {s : State} (h : RunBounds s) (c : Fin 5) (r : Result) : RunBounds (endRun c r s) := by
  unfold Machine.endRun
  split
  · exact h
  · exact h.writeOutcome c _ r fun u hu => hu.finishRun c _

theorem RunBounds.settleChannel {s : State} (h : RunBounds s) (c : Fin 5) : RunBounds (settleChannel c s) := by
  unfold Machine.settleChannel
  split
  · exact h.endRun c _
  · exact (offerNext_quiet c s).runBounds h

theorem RunBounds.refuse {s : State} (h : RunBounds s) (code : RefusalCode) (x : BitVec 8) :
    RunBounds (s.refuse code x) := h

theorem RunBounds.submitTo {s : State} (h : RunBounds s) (c : Fin 5) (k : Fin 64) : RunBounds (submitTo c k s) := by
  unfold Machine.submitTo
  refine iteInduction (fun _ => h.refuse _ _) fun _ => iteInduction (fun _ => h.refuse _ _) fun _ =>
    iteInduction (fun _ => h.refuse _ _) fun room => ?_
  have appended : RunBounds (appendSlot c k s) := by
    refine RunBounds.modChannel (s := s.modSlot k _) h c _ ?_
    rw [List.length_append]
    exact Nat.lt_of_not_le room
  exact iteInduction (fun _ => appended.takeNext c) fun _ => appended

theorem RunBounds.emptyQueue {s : State} (h : RunBounds s) (c : Fin 5) : RunBounds (emptyQueue c s) := by
  have returned (ks : List (Fin 64)) (u : State) (hu : RunBounds u) : RunBounds (ks.foldl cancelQueuedSlot u) := by
    induction ks generalizing u with
    | nil => exact hu
    | cons k ks ih => exact ih _ hu
  exact (returned _ s h).modChannel c _ (Nat.zero_le _)

theorem RunBounds.cancelChannel {s : State} (h : RunBounds s) (c : Fin 5) : RunBounds (cancelChannel c s) := by
  have emptied := h.emptyQueue c
  unfold Machine.cancelChannel
  split
  · exact h.refuse _ _
  · exact emptied
  · exact emptied
  · exact emptied.modChannel c _ (by exact emptied.2 c)
  · exact emptied.modChannel c _ (by exact emptied.2 c)
  · exact (emptied.modChannel c _ (by exact emptied.2 c)).settleChannel c

/-- A POP frees a place before it is given to a waiting poster. -/
theorem RunBounds.popRecord {s : State} (h : RunBounds s) : RunBounds (popRecord s) := by
  have popped (u : CompletionUnit) : u.afterPop.queue = u.queue := by
    unfold CompletionUnit.afterPop
    split <;> rfl
  unfold Machine.popRecord
  split
  · exact h.refuse _ _
  · rename_i rest queue
    have bound := h.1
    rw [queue, List.length_cons] at bound
    have off : RunBounds (s.modCq fun u => u.popOff rest) := by
      refine ⟨?_, h.2⟩
      rw [modCq_cq, CompletionUnit.popOff, popped]
      exact Nat.le_of_succ_le bound
    split
    · exact off
    · split
      · refine RunBounds.finishRun (s := s.modCq _) ⟨?_, h.2⟩ _ _
        rw [modCq_cq, CompletionUnit.popTo, popped]
        simpa [CompletionUnit.post] using bound
      · exact off

/-! ### The whole law -/

/-- Both laws of the statement. -/
def Bounded (s : State) : Prop := CapacityLaw s ∧ ContentsLaw s

theorem Quiet.bounded {s t : State} (h : Quiet s t) (law : Bounded s) : Bounded t :=
  ⟨h.capacityLaw law.1, h.contents law.2⟩

theorem Bounded.runBounds {s : State} (law : Bounded s) : RunBounds s := ⟨law.1.2.1, law.1.2.2.1⟩

theorem Calm.bounded {s t : State} (h : Calm s t) (paq : t.paq.length ≤ 24) (law : Bounded s) : Bounded t := by
  obtain ⟨⟨_, cq, queues, fifos, windows⟩, contents⟩ := law
  exact ⟨⟨paq, h.cq ▸ cq, fun c => (h.channel c).1 ▸ queues c, fun p => Nat.le_trans (h.fifo p) (fifos p),
    fun l => Nat.le_trans (h.openWindow l) (windows l)⟩, h.contents contents⟩

theorem Bounded.host {s t : State} (law : Bounded s) (part : HostPart s t) (run : RunBounds t) : Bounded t := by
  obtain ⟨_, _, _, _, _, rfl⟩ := part
  obtain ⟨⟨paq, _, _, fifos, windows⟩, contents⟩ := law
  exact ⟨⟨paq, run.1, run.2, fifos, windows⟩, contents⟩

/-- A FIFO with a place takes a word. -/
theorem Bounded.appendWord {s : State} (law : Bounded s) (p : Fin 4) (w : Word × Bool)
    (room : s.ports[p].fifo.length < 32) : Bounded (s.modPort p fun q => { q with fifo := q.fifo ++ [w] }) := by
  obtain ⟨⟨paq, cq, queues, fifos, windows⟩, contents⟩ := law
  refine ⟨⟨paq, cq, queues, fun q => ?_, windows⟩, contents⟩
  rw [modPort_port_record]
  split
  · rw [List.length_append]
    exact room
  · exact fifos q

theorem Bounded.arrive {s : State} (law : Bounded s) (p : Fin 4) (w : Word) (m : Bool) : Bounded (arrive p w m s) := by
  unfold Machine.arrive
  refine iteInduction (fun ready => ?_) fun _ => (Quiet.raise _).bounded law
  have room : s.ports[p].fifo.length < 32 := of_decide_eq_true (Bool.and_eq_true_iff.1 ready).2
  exact (offerNext_quiet _ _).bounded (law.appendWord p (w, m) room)

/-- A word is placed only into a FIFO with a place. -/
theorem nextPlacement_room {s : State} {p : Fin 4} (h : (nextPlacement s p).isSome = true) :
    s.ports[p].fifo.length < 32 := by
  unfold nextPlacement at h
  dsimp only at h
  split at h
  · rename_i guard
    exact of_decide_eq_true (Bool.and_eq_true_iff.1 guard).2
  · cases h

theorem Bounded.placeWord {s : State} (law : Bounded s) (p : Fin 4) : Bounded (placeWord p s) := by
  unfold Machine.placeWord
  split
  · exact law
  · rename_i k i q z h w rest found
    have room := nextPlacement_room (s := s) (p := p) (by rw [found]; rfl)
    have joined := law.appendWord p (w, placementMark s.channels[channelOfPort p] s.slots[k] rest) room
    have placed := (Quiet.modChannel (channelOfPort p) (afterPlacement i q z h rest) rfl rfl rfl).bounded joined
    exact placed.host (settleChannel_runPart _ _).hostPart (placed.runBounds.settleChannel _)

theorem Bounded.admitNext {s : State} (law : Bounded s) : Bounded (admitNext s) := by
  have calm := admitNext_calm s
  have grown := admitNext_admitted s
  cases source : nextSource s with
  | none =>
    simp only [Machine.admitNext, source]
    exact law
  | some src =>
    have room := (nextSource_some source).2
    refine calm.bounded ?_ law
    cases grown with
    | none paq => rw [paq]; exact law.1.1
    | read e _ _ _ paq => rw [paq, List.length_append]; exact room
    | write e _ _ _ _ _ _ paq => rw [paq, List.length_append]; exact room

theorem pushWindow_length {times : List Nat} (t : Nat) (h : times.length ≤ 4) : (pushWindow times t).length ≤ 4 := by
  unfold pushWindow
  split <;> simp <;> omega

theorem issue_bounded {c : Choice} {s : State} (_ : Admissible s c) (law : Bounded s) : Bounded (issue c s) := by
  cases c with
  | openRow b row =>
    obtain ⟨⟨paq, cq, queues, fifos, windows⟩, contents⟩ := law
    refine ⟨⟨paq, cq, queues, fifos, fun l => ?_⟩, contents⟩
    rw [issue, issueOpen, modLayer_layer]
    split
    · exact pushWindow_length _ (windows _)
    · exact windows l
  | shut b => exact (Quiet.modBank b _).bounded law
  | column e =>
    refine (issueColumn_calm e s).bounded ?_ law
    rw [issueColumn_paq, List.length_map]
    exact Nat.le_trans (List.length_filter_le _ _) law.1.1
  | renew l => exact (issueRenew_calm l s).bounded law.1.1 law
  | patternRead => exact (issuePattern_quiet s).bounded law
  | park => exact (issuePark_quiet s).bounded law

theorem Bounded.channelReturn {s : State} (law : Bounded s) (c : Fin 5) (i : Fin 8) (e : Issued) (k : WordClass)
    (words : List Word) : Bounded (channelReturn c i e k words s) := by
  refine law.host (channelReturn_runPart c i e k words s).hostPart ?_
  refine (law.runBounds.modChannel c _ ?_).settleChannel c
  have stopped (ch : Channel) (q : Nat) : (ch.stopAt q).queue = ch.queue := rfl
  have bound := law.runBounds.2 c
  dsimp only
  split
  · split
    · rw [stopped]
      exact bound
    · exact bound
  · split <;> exact bound

theorem Bounded.deliver {s : State} (law : Bounded s) (e : Issued) (k : WordClass) (words : List Word) :
    Bounded (deliver e k words s) := by
  unfold Machine.deliver
  split
  · exact law.channelReturn _ _ e k words
  · exact (windowReturn_quiet e k words s).bounded law
  · exact (scrubReturn_quiet k words s).bounded law
  · exact law

theorem Bounded.takeReturn {s : State} (law : Bounded s) (flips : List StackWord) : Bounded (takeReturn flips s) := by
  cases ended : endedHead s .read with
  | none =>
    simp only [Machine.takeReturn, ended]
    exact law
  | some taken =>
    simp only [Machine.takeReturn, ended]
    have left : Bounded { s with issued := taken.2 } := (Calm.queues s.paq s.nextEntry s.wdb _).bounded law.1.1 law
    exact (endTransferReset_quiet _).bounded (((recordClass_quiet _ _ _ _).bounded left).deliver taken.1 _ _)

theorem Bounded.channelSent {s : State} (law : Bounded s) (c : Fin 5) (z : Size) : Bounded (channelSent c z s) := by
  have counted := law.runBounds.modChannel c
    (fun ch => { ch with outstanding := ch.outstanding - 1, unitsReached := ch.unitsReached + unitsOf z })
    (law.runBounds.2 c)
  refine law.host (channelSent_runPart c z s).hostPart ?_
  unfold Machine.channelSent
  split
  · exact counted
  · exact counted.settleChannel c

theorem Bounded.tellSent {s : State} (law : Bounded s) (e : Issued) : Bounded (tellSent e s) := by
  unfold Machine.tellSent
  split
  · exact law.channelSent _ _
  · exact (endWindow_quiet _ s).bounded law
  · split
    · exact (scrubStepEnd_quiet s).bounded law
    · exact law

theorem releaseWdb_calm (b : Buffer) (s : State) : Calm s (releaseWdb b s) := by
  unfold releaseWdb
  split
  · exact .queues s.paq s.nextEntry _ s.issued
  · exact .rfl

theorem releaseWdb_paq (b : Buffer) (s : State) : (releaseWdb b s).paq = s.paq := by
  unfold releaseWdb
  split <;> rfl

/-- The words of a WRITE go into the stack in the canonical form. -/
theorem Bounded.storeWords {s : State} (law : Bounded s) (a : Nat) (words : List Word) :
    Bounded (storeWords a words s) := ⟨law.1, contentsWf_storeWords a words s law.2⟩

theorem Bounded.takeSent {s : State} (law : Bounded s) : Bounded (takeSent s) := by
  cases ended : endedHead s .write with
  | none =>
    simp only [Machine.takeSent, ended]
    exact law
  | some taken =>
    simp only [Machine.takeSent, ended]
    have left : Bounded { s with issued := taken.2 } := (Calm.queues s.paq s.nextEntry s.wdb _).bounded law.1.1 law
    have stored := left.storeWords taken.1.address (wdbWords s taken.1.buffer)
    have freed := (releaseWdb_calm taken.1.buffer _).bounded (by rw [releaseWdb_paq]; exact stored.1.1) stored
    exact (endTransferReset_quiet _).bounded (freed.tellSent taken.1)

/-- Every queue but the issued list is empty after the start of a transfer reset (R43, R127, R176, R184). -/
theorem startTransferReset_queues (s : State) :
    (startTransferReset s).cq.queue = [] ∧ (∀ c : Fin 5, (startTransferReset s).channels[c].queue = [])
      ∧ ∀ p : Fin 4, (startTransferReset s).ports[p].fifo.length = 0 := by
  have discards (waiting : Bool) (u : State) :
      Quiet u (endTransferReset (windowAtTransferReset waiting (resetArbiter (scrubAbandon u)))) :=
    (((scrubAbandon_quiet u).trans (.modArbiter _)).trans (windowAtTransferReset_quiet _ _)).trans (endTransferReset_quiet _)
  rw [startTransferReset]
  have quiet := discards (s.paq.any fun e => e.source = .win)
    { discardWaiting s with
      transferReset := true
      slots := mapVector (discardWaiting s).slots (Slot.atTransferReset (discardWaiting s).channels)
      channels := mapVector (discardWaiting s).channels Channel.atTransferReset
      ports := mapVector (discardWaiting s).ports fun p => { p with fifo := [] }
      flags := (discardWaiting s).flags &&& keptFlags
      cq := (discardWaiting s).cq.atTransferReset }
  refine ⟨quiet.cq, fun c => ?_, fun p => ?_⟩
  · rw [(quiet.channel c).1, getElem_mapVector]
    rfl
  · refine Nat.le_zero.1 (Nat.le_trans (quiet.fifo p) ?_)
    rw [getElem_mapVector]
    exact Nat.le_refl 0

theorem Bounded.startTransferReset {s : State} (law : Bounded s) : Bounded (startTransferReset s) := by
  obtain ⟨cq, queues, fifos⟩ := startTransferReset_queues s
  obtain ⟨_, _, _, _, _, _, _, _, _, _, frame⟩ := startTransferReset_frame s
  have paq : (Machine.startTransferReset s).paq = [] := by rw [frame]
  have layers : (Machine.startTransferReset s).layerRecords = s.layerRecords := by rw [frame]
  have stack : (Machine.startTransferReset s).stack = s.stack := by rw [frame]
  refine ⟨⟨paq ▸ Nat.zero_le _, cq ▸ Nat.zero_le _, fun c => queues c ▸ Nat.zero_le _, fun p => Nat.le_trans
    (Nat.le_of_eq (fifos p)) (Nat.zero_le _), layers ▸ law.1.2.2.2.2⟩, ?_⟩
  rw [ContentsLaw, stack]
  exact law.2

theorem reset_bounded : Bounded State.reset := by
  refine ⟨⟨Nat.zero_le _, Nat.zero_le _, fun c => ?_, fun p => ?_, fun l => ?_⟩, rfl⟩
  · simp [State.reset, Channel.reset]
  · simp [State.reset, StreamPort.reset]
  · simp [State.reset, LayerRecord.reset]

theorem Loud.bounded {f : State → State} (op : Loud f) (s : State) (law : Bounded s) : Bounded (f s) := by
  have run := law.runBounds
  cases op with
  | submit c k => exact law.host (submitTo_hostPart c k s) (run.submitTo c k)
  | enable c =>
    refine law.host (enableChannel_hostPart c s) ?_
    exact iteInduction (fun _ => run.takeNext c) fun _ => run.refuse _ _
  | resume c =>
    refine law.host (resumeChannel_hostPart c s) ?_
    exact iteInduction (fun _ => run.takeNext c) fun _ => run.refuse _ _
  | cancel c => exact law.host (cancelChannel_hostPart c s) (run.cancelChannel c)
  | pop => exact law.host (popRecord_hostPart s) run.popRecord
  | transferReset => exact law.startTransferReset
  | deviceReset => exact reset_bounded
  | pin => exact reset_bounded
  | arrival p w m => exact law.arrive p w m
  | placement p => exact law.placeWord p
  | admission => exact law.admitNext
  | slot => exact commandSlot_keeps Quiet.bounded issue_bounded law
  | ret flips => exact law.takeReturn flips
  | sent => exact law.takeSent

/-- Settles O58: an operation that adds to a queue does so only where the queue has a place, and each WRITE goes into the contents
at its own place in the rising order. -/
theorem capacityAndContentsKept : Obligations.CapacityAndContentsKept := fun _ _ capacity contents =>
  law_kept Quiet.bounded Loud.bounded ⟨capacity, contents⟩

end Sys2Proof.Machine
end

section
/-! SUPPORT. The owner law through the events of a run (R91, R102, R103, R120, R121). -/

namespace Sys2Proof.Machine

/-- The part of the owner law that speaks of one slot. -/
def SlotLaw (s : State) (k : Fin 64) : Prop :=
  (∀ c : Fin 5, (k ∈ s.channels[c].queue ↔ (s.slots[k].owner = .taken ∧ s.slots[k].holder = some c))
    ∧ (s.channels[c].current = some k ↔ (s.slots[k].owner = .running ∧ s.slots[k].holder = some c)))
  ∧ (s.slots[k].owner = .host ↔ s.slots[k].holder = none)

/-- The part of the owner law that speaks of one channel. -/
def ChannelLaw (s : State) (c : Fin 5) : Prop :=
  s.channels[c].queue.Nodup ∧ s.channels[c].current.isSome = s.channels[c].state.isBusy

theorem ownerLaw_iff (s : State) : OwnerLaw s ↔ (∀ k, SlotLaw s k) ∧ ∀ c, ChannelLaw s c := by
  constructor
  · rintro ⟨shares, channels, hosts⟩
    exact ⟨fun k => ⟨fun c => shares c k, hosts k⟩, channels⟩
  · rintro ⟨slots, channels⟩
    exact ⟨fun c k => (slots k).1 c, channels, fun k => (slots k).2⟩

/-- Channel `c` runs no slot, and its state has not been settled yet: the owner law but for `c`'s state. -/
structure BetweenRuns (c : Fin 5) (s : State) : Prop where
  slots : ∀ k, SlotLaw s k
  others : ∀ d, d ≠ c → ChannelLaw s d
  nodup : s.channels[c].queue.Nodup
  current : s.channels[c].current = none

/-- Slot `k` has left its place, and channel `c` is about to run it. -/
structure Chosen (c : Fin 5) (k : Fin 64) (s : State) : Prop where
  slots : ∀ j, j ≠ k → SlotLaw s j
  unqueued : ∀ d : Fin 5, k ∉ s.channels[d].queue
  unrun : ∀ d : Fin 5, s.channels[d].current ≠ some k
  others : ∀ d, d ≠ c → ChannelLaw s d
  nodup : s.channels[c].queue.Nodup
  current : s.channels[c].current = none

/-! ### The rules of the owner law -/

/-- A slot outside the slots changed keeps its law where its owner, its holder and its places are the same. -/
theorem SlotLaw.of_same {s t : State} {k : Fin 64} (h : SlotLaw s k)
    (slot : t.slots[k].owner = s.slots[k].owner ∧ t.slots[k].holder = s.slots[k].holder)
    (queued : ∀ c : Fin 5, k ∈ t.channels[c].queue ↔ k ∈ s.channels[c].queue)
    (run : ∀ c : Fin 5, t.channels[c].current = some k ↔ s.channels[c].current = some k) : SlotLaw t k := by
  unfold SlotLaw
  rw [slot.1, slot.2]
  exact ⟨fun c => ⟨(queued c).trans (h.1 c).1, (run c).trans (h.1 c).2⟩, h.2⟩

/-- A change of channel `c` that keeps its queue and its current slot keeps every slot's law. -/
theorem SlotLaw.modChannel {s : State} {k : Fin 64} (h : SlotLaw s k) (c : Fin 5) (f : Channel → Channel)
    (queue : (f s.channels[c]).queue = s.channels[c].queue) (current : (f s.channels[c]).current = s.channels[c].current) :
    SlotLaw (s.modChannel c f) k := by
  refine h.of_same ⟨rfl, rfl⟩ (fun d => ?_) fun d => ?_ <;> rw [modChannel_channel] <;> split <;> rename_i same
  · rw [queue, same]
  · rfl
  · rw [current, same]
  · rfl

theorem ChannelLaw.modOther {s : State} {c d : Fin 5} (h : ChannelLaw s d) (ne : d ≠ c) (f : Channel → Channel) :
    ChannelLaw (s.modChannel c f) d := by
  unfold ChannelLaw
  rw [modChannel_channel, if_neg ne.symm]
  exact h

theorem BetweenRuns.modChannel {s : State} {c : Fin 5} (h : BetweenRuns c s) (f : Channel → Channel)
    (queue : (f s.channels[c]).queue = s.channels[c].queue) (current : (f s.channels[c]).current = s.channels[c].current) :
    BetweenRuns c (s.modChannel c f) where
  slots k := (h.slots k).modChannel c f queue current
  others _ ne := (h.others _ ne).modOther ne f
  nodup := by rw [modChannel_self, queue]; exact h.nodup
  current := by rw [modChannel_self, current]; exact h.current

theorem BetweenRuns.raise {s : State} {c : Fin 5} (h : BetweenRuns c s) (f : Flag) : BetweenRuns c (s.raise f) :=
  ⟨h.slots, h.others, h.nodup, h.current⟩

/-- A channel without a current slot comes to rest in a state that has none. -/
theorem BetweenRuns.rest {s : State} {c : Fin 5} (h : BetweenRuns c s) (state : ChannelState)
    (idle : state.isBusy = false) : OwnerLaw (s.modChannel c fun ch => { ch with state := state }) := by
  refine (ownerLaw_iff _).2 ⟨fun k => (h.slots k).modChannel c _ rfl rfl, fun d => ?_⟩
  by_cases same : d = c
  · subst same
    unfold ChannelLaw
    rw [modChannel_self]
    exact ⟨h.nodup, by rw [h.current, idle]; rfl⟩
  · exact (h.others d same).modOther same _

theorem OwnerLaw.modChannel {s : State} (law : OwnerLaw s) (c : Fin 5) (f : Channel → Channel)
    (queue : (f s.channels[c]).queue = s.channels[c].queue) (current : (f s.channels[c]).current = s.channels[c].current)
    (busy : (f s.channels[c]).state.isBusy = s.channels[c].state.isBusy) : OwnerLaw (s.modChannel c f) :=
  (Quiet.modChannel c f queue current busy).ownerLaw law

theorem OwnerLaw.modSlot {s : State} (law : OwnerLaw s) (k : Fin 64) (f : Slot → Slot)
    (owner : (f s.slots[k]).owner = s.slots[k].owner) (holder : (f s.slots[k]).holder = s.slots[k].holder) :
    OwnerLaw (s.modSlot k f) :=
  (Quiet.modSlot k f owner holder).ownerLaw law

/-- A channel in a state without a current slot is between runs. -/
theorem OwnerLaw.between {s : State} (law : OwnerLaw s) {c : Fin 5} (idle : s.channels[c].state.isBusy = false) :
    BetweenRuns c s := by
  obtain ⟨slots, channels⟩ := (ownerLaw_iff s).1 law
  obtain ⟨nodup, busy⟩ := channels c
  refine ⟨slots, fun d _ => channels d, nodup, ?_⟩
  rw [idle] at busy
  simpa using busy

/-- The host's own slot is chosen by a link (R103). -/
theorem BetweenRuns.choose {s : State} {c : Fin 5} {k : Fin 64} (h : BetweenRuns c s) (own : s.slots[k].owner = .host) :
    Chosen c k s := by
  obtain ⟨places, _⟩ := h.slots k
  refine ⟨fun j _ => h.slots j, fun d queued => ?_, fun d run => ?_, h.others, h.nodup, h.current⟩
  · exact absurd (own.symm.trans ((places d).1.1 queued).1) (by decide)
  · exact absurd (own.symm.trans ((places d).2.1 run).1) (by decide)

/-- The head of the queue is chosen (R102). -/
theorem BetweenRuns.takeHead {s : State} {c : Fin 5} {k : Fin 64} {rest : List (Fin 64)} (h : BetweenRuns c s)
    (head : s.channels[c].queue = k :: rest) : Chosen c k (s.modChannel c fun ch => { ch with queue := rest }) := by
  obtain ⟨places, _⟩ := h.slots k
  have nodup := h.nodup
  rw [head, List.nodup_cons] at nodup
  obtain ⟨absent, nodup⟩ := nodup
  have place := (places c).1.1 (by rw [head]; exact List.mem_cons_self)
  have run (d : Fin 5) : (s.modChannel c fun ch => { ch with queue := rest }).channels[d].current = s.channels[d].current := by
    rw [modChannel_channel]
    split
    · rename_i same
      subst same
      rfl
    · rfl
  refine ⟨fun j ne => (h.slots j).of_same ⟨rfl, rfl⟩ (fun d => ?_) fun d => by rw [run], fun d => ?_, fun d => ?_,
    fun d ne => (h.others d ne).modOther ne _, ?_, (run c).trans h.current⟩
  · rw [modChannel_channel]
    split
    · rename_i same
      subst same
      rw [head, List.mem_cons, or_iff_right ne]
    · rfl
  · rw [modChannel_channel]
    split
    · exact absent
    · rename_i other
      intro queued
      exact other (Option.some.inj (place.2.symm.trans ((places d).1.1 queued).2))
  · rw [run]
    intro running
    exact absurd (place.1.symm.trans ((places d).2.1 running).1) (by decide)
  · rw [modChannel_self]
    exact nodup

/-! ### The beginning and the end of a run -/

theorem setUpRun_slot (s : State) (c : Fin 5) (k j : Fin 64) :
    (setUpRun c k s).slots[j]
      = if k = j then { s.slots[k] with owner := .running, holder := some c, result := .none, doneUnits := 0 }
        else s.slots[j] :=
  modSlot_slot s k j fun d => { d with owner := .running, holder := some c, result := .none, doneUnits := 0 }

theorem closeRun_slot (s : State) (c : Fin 5) (k j : Fin 64) :
    (closeRun c k s).slots[j] = if k = j then { s.slots[k] with owner := .host, holder := none } else s.slots[j] :=
  modSlot_slot s k j fun d => { d with owner := .host, holder := none }

theorem setUpRun_channel (s : State) (c d : Fin 5) (k : Fin 64) :
    (setUpRun c k s).channels[d].queue = s.channels[d].queue
    ∧ (setUpRun c k s).channels[d].current = (if c = d then some k else s.channels[d].current)
    ∧ (setUpRun c k s).channels[d].state = if c = d then .run else s.channels[d].state := by
  have record : (setUpRun c k s).channels[d] = _ := modChannel_channel _ c d _
  rw [record]
  split
  · rename_i same
    subst same
    exact ⟨rfl, rfl, rfl⟩
  · exact ⟨rfl, rfl, rfl⟩

theorem closeRun_channel (s : State) (c d : Fin 5) (k : Fin 64) :
    (closeRun c k s).channels[d].queue = s.channels[d].queue
    ∧ (closeRun c k s).channels[d].current = (if c = d then none else s.channels[d].current)
    ∧ (closeRun c k s).channels[d].state = s.channels[d].state := by
  have record : (closeRun c k s).channels[d] = _ := modChannel_channel _ c d _
  rw [record]
  split
  · rename_i same
    subst same
    exact ⟨rfl, rfl, rfl⟩
  · exact ⟨rfl, rfl, rfl⟩

/-- The set-up of a chosen slot restores the owner law. -/
theorem Chosen.setUpRun {s : State} {c : Fin 5} {k : Fin 64} (h : Chosen c k s) : OwnerLaw (setUpRun c k s) := by
  refine (ownerLaw_iff _).2 ⟨fun j => ?_, fun d => ?_⟩
  · by_cases same : k = j
    · subst same
      unfold SlotLaw
      rw [setUpRun_slot, if_pos rfl]
      refine ⟨fun d => ?_, by simp⟩
      obtain ⟨queue, current, _⟩ := setUpRun_channel s c d k
      rw [queue, current]
      refine ⟨iff_of_false (h.unqueued d) (by simp), ?_⟩
      split
      · rename_i here
        simp [here]
      · rename_i other
        exact iff_of_false (h.unrun d) (by simp [other])
    · refine (h.slots j (Ne.symm same)).of_same ?_ (fun d => ?_) fun d => ?_
      · rw [setUpRun_slot, if_neg same]
        exact ⟨rfl, rfl⟩
      · rw [(setUpRun_channel s c d k).1]
      · rw [(setUpRun_channel s c d k).2.1]
        split
        · rename_i here
          rw [← here, h.current]
          simp [same]
        · rfl
  · obtain ⟨queue, current, state⟩ := setUpRun_channel s c d k
    unfold ChannelLaw
    rw [queue, current, state]
    split
    · rename_i here
      exact ⟨here ▸ h.nodup, rfl⟩
    · rename_i other
      exact h.others d (Ne.symm other)

/-- The close of a channel's run returns its slot to the host and leaves the channel between runs. -/
theorem OwnerLaw.closeRun {s : State} (law : OwnerLaw s) {c : Fin 5} {k : Fin 64} (run : s.channels[c].current = some k) :
    BetweenRuns c (closeRun c k s) := by
  obtain ⟨slots, channels⟩ := (ownerLaw_iff s).1 law
  obtain ⟨places, _⟩ := slots k
  have place := (places c).2.1 run
  refine ⟨fun j => ?_, fun d ne => ?_, ?_, ?_⟩
  · by_cases same : k = j
    · subst same
      unfold SlotLaw
      rw [closeRun_slot, if_pos rfl]
      refine ⟨fun d => ?_, by simp⟩
      obtain ⟨queue, current, _⟩ := closeRun_channel s c d k
      rw [queue, current]
      refine ⟨iff_of_false (fun queued => ?_) (by simp), iff_of_false ?_ (by simp)⟩
      · exact absurd (place.1.symm.trans ((places d).1.1 queued).1) (by decide)
      · split
        · simp
        · rename_i other
          intro running
          exact other (Option.some.inj (place.2.symm.trans ((places d).2.1 running).2))
    · refine (slots j).of_same ?_ (fun d => ?_) fun d => ?_
      · rw [closeRun_slot, if_neg same]
        exact ⟨rfl, rfl⟩
      · rw [(closeRun_channel s c d k).1]
      · rw [(closeRun_channel s c d k).2.1]
        split
        · rename_i here
          rw [← here, run]
          simp [same]
        · rfl
  · obtain ⟨queue, current, state⟩ := closeRun_channel s c d k
    unfold ChannelLaw
    rw [queue, current, state, if_neg ne.symm]
    exact channels d
  · rw [(closeRun_channel s c c k).1]
    exact (channels c).1
  · rw [(closeRun_channel s c c k).2.1, if_pos rfl]

theorem BetweenRuns.haltChannel {s : State} {c : Fin 5} (h : BetweenRuns c s) : OwnerLaw (haltChannel c s) :=
  h.rest .halted rfl

/-- A channel that awaits the posting of its record keeps its slot and stays busy. -/
theorem OwnerLaw.writeOutcome {s : State} (law : OwnerLaw s) {c : Fin 5} {k : Fin 64} (run : s.channels[c].current = some k)
    (r : Result) {next : State → State}
    (goesOn : ∀ u : State, OwnerLaw u → u.channels[c].current = some k → OwnerLaw (next u)) :
    OwnerLaw (writeOutcome c k r next s) := by
  have put : OwnerLaw (putOutcome c k r s) := law.modSlot k _ rfl rfl
  have busy := (((ownerLaw_iff s).1 law).2 c).2
  rw [run] at busy
  unfold Machine.writeOutcome
  refine iteInduction (fun _ => iteInduction (fun _ => goesOn _ put run) fun _ => ?_) fun _ => goesOn _ put run
  refine OwnerLaw.modChannel put c _ rfl rfl ?_
  rw [show (putOutcome c k r s).channels = s.channels from rfl, ← busy]
  dsimp only
  split <;> rfl

theorem Chosen.beginRun {s : State} {c : Fin 5} {k : Fin 64} (h : Chosen c k s) : OwnerLaw (beginRun c k s) := by
  unfold Machine.beginRun
  split
  · refine h.setUpRun.writeOutcome ?_ _ fun u law run => (law.closeRun run).haltChannel
    rw [(setUpRun_channel s c c k).2.1, if_pos rfl]
  · exact (offerNext_quiet c _).ownerLaw h.setUpRun

theorem BetweenRuns.takeNext {s : State} {c : Fin 5} (h : BetweenRuns c s) : OwnerLaw (takeNext c s) := by
  cases head : s.channels[c].queue with
  | nil =>
    rw [takeNext_nil head]
    exact h.rest .idle rfl
  | cons k rest =>
    rw [takeNext_cons head]
    exact (h.takeHead head).beginRun

theorem BetweenRuns.followLink {s : State} {c : Fin 5} (h : BetweenRuns c s) (l : Option (Fin 64)) :
    OwnerLaw (followLink c l s) := by
  unfold Machine.followLink
  split
  · exact h.takeNext
  · split
    · rename_i own
      exact (h.choose own).beginRun
    · exact ((h.modChannel (fun ch => { ch with lastRefused := some _ }) rfl rfl).raise _).takeNext

theorem OwnerLaw.finishRun {s : State} (law : OwnerLaw s) {c : Fin 5} {k : Fin 64} (run : s.channels[c].current = some k) :
    OwnerLaw (finishRun c k s) := by
  have closed := law.closeRun run
  unfold Machine.finishRun
  split
  · exact closed.takeNext
  · split
    · exact closed.haltChannel
    · exact closed.followLink _

theorem OwnerLaw.endRun {s : State} (law : OwnerLaw s) (c : Fin 5) (r : Result) : OwnerLaw (endRun c r s) := by
  unfold Machine.endRun
  split
  · exact law
  · rename_i run
    exact law.writeOutcome run r fun u law run => law.finishRun run

theorem OwnerLaw.settleChannel {s : State} (law : OwnerLaw s) (c : Fin 5) : OwnerLaw (settleChannel c s) := by
  unfold Machine.settleChannel
  split
  · exact law.endRun c _
  · exact (offerNext_quiet c s).ownerLaw law

end Sys2Proof.Machine
end

section
/-! SUPPORT. The owner law at each loud operation (R91, R94, R109, R110, R169, R184). -/

namespace Sys2Proof.Machine

theorem appendSlot_channel (s : State) (c d : Fin 5) (k : Fin 64) :
    (appendSlot c k s).channels[d].queue = (if c = d then s.channels[d].queue ++ [k] else s.channels[d].queue)
    ∧ (appendSlot c k s).channels[d].current = s.channels[d].current
    ∧ (appendSlot c k s).channels[d].state = s.channels[d].state := by
  have record : (appendSlot c k s).channels[d] = _ := modChannel_channel _ c d _
  rw [record]
  split
  · rename_i same
    subst same
    exact ⟨rfl, rfl, rfl⟩
  · exact ⟨rfl, rfl, rfl⟩

/-- A submitted slot joins one queue, where it stands once (R91, R94). -/
theorem OwnerLaw.appendSlot {s : State} (law : OwnerLaw s) (c : Fin 5) {k : Fin 64} (own : s.slots[k].owner = .host) :
    OwnerLaw (appendSlot c k s) := by
  obtain ⟨slots, channels⟩ := (ownerLaw_iff s).1 law
  obtain ⟨places, _⟩ := slots k
  have unqueued (d : Fin 5) : k ∉ s.channels[d].queue := fun queued =>
    absurd (own.symm.trans ((places d).1.1 queued).1) (by decide)
  have slot (j : Fin 64) : (Machine.appendSlot c k s).slots[j] = _ :=
    modSlot_slot s k j fun d => { d with owner := .taken, holder := some c, result := .none, doneUnits := 0 }
  have current (d : Fin 5) := (appendSlot_channel s c d k).2.1
  refine (ownerLaw_iff _).2 ⟨fun j => ?_, fun d => ?_⟩
  · by_cases same : k = j
    · subst same
      unfold SlotLaw
      rw [slot, if_pos rfl]
      refine ⟨fun d => ?_, by simp⟩
      rw [(appendSlot_channel s c d k).1, current]
      refine ⟨?_, iff_of_false (fun run => ?_) (by simp)⟩
      · split
        · rename_i here
          simp [here]
        · rename_i other
          exact iff_of_false (unqueued d) (by simp [other])
      · exact absurd (own.symm.trans ((places d).2.1 run).1) (by decide)
    · refine (slots j).of_same ?_ (fun d => ?_) fun d => by rw [current]
      · rw [slot, if_neg same]
        exact ⟨rfl, rfl⟩
      · rw [(appendSlot_channel s c d k).1]
        split
        · simp [Ne.symm same]
        · rfl
  · obtain ⟨nodup, busy⟩ := channels d
    unfold ChannelLaw
    rw [(appendSlot_channel s c d k).1, current, (appendSlot_channel s c d k).2.2]
    refine ⟨?_, busy⟩
    split
    · exact List.nodup_append.2 ⟨nodup, List.nodup_cons.2 ⟨List.not_mem_nil, .nil⟩, fun a ha b hb same =>
        unqueued d (by rw [List.mem_singleton] at hb; exact hb ▸ same ▸ ha)⟩
    · exact nodup

theorem OwnerLaw.refuse {s : State} (law : OwnerLaw s) (code : RefusalCode) (x : BitVec 8) : OwnerLaw (s.refuse code x) :=
  (Quiet.refuse code x).ownerLaw law

theorem OwnerLaw.submitTo {s : State} (law : OwnerLaw s) (c : Fin 5) (k : Fin 64) : OwnerLaw (submitTo c k s) := by
  unfold Machine.submitTo
  refine iteInduction (fun _ => law.refuse _ _) fun _ => iteInduction (fun _ => law.refuse _ _) fun own =>
    iteInduction (fun _ => law.refuse _ _) fun _ => ?_
  have appended := law.appendSlot c (Decidable.not_not.1 own)
  refine iteInduction (fun idle => (appended.between ?_).takeNext) fun _ => appended
  rw [(appendSlot_channel s c c k).2.2, idle]
  rfl

/-- The slots that a CANCEL takes out of a queue go back to the host; the others keep their owner. -/
theorem cancelQueuedSlots_slot (ks : List (Fin 64)) (s : State) (k : Fin 64) :
    (ks.foldl cancelQueuedSlot s).channels = s.channels
    ∧ (k ∈ ks → (ks.foldl cancelQueuedSlot s).slots[k].owner = .host
        ∧ (ks.foldl cancelQueuedSlot s).slots[k].holder = none)
    ∧ (k ∉ ks → (ks.foldl cancelQueuedSlot s).slots[k] = s.slots[k]) := by
  induction ks generalizing s with
  | nil => exact ⟨rfl, fun h => absurd h List.not_mem_nil, fun _ => rfl⟩
  | cons j ks ih =>
    obtain ⟨channels, inside, outside⟩ := ih (cancelQueuedSlot s j)
    have slot : (cancelQueuedSlot s j).slots[k] = _ :=
      modSlot_slot s j k fun d => { d with owner := .host, holder := none, result := .cancelled, doneUnits := 0 }
    refine ⟨channels, fun mem => ?_, fun absent => ?_⟩
    · by_cases later : k ∈ ks
      · exact inside later
      · have here : j = k := ((List.mem_cons.1 mem).resolve_right later).symm
        rw [List.foldl_cons, outside later, slot, if_pos here]
        exact ⟨rfl, rfl⟩
    · rw [List.mem_cons, not_or] at absent
      rw [List.foldl_cons, outside absent.2, slot, if_neg (Ne.symm absent.1)]

theorem OwnerLaw.emptyQueue {s : State} (law : OwnerLaw s) (c : Fin 5) : OwnerLaw (emptyQueue c s) := by
  obtain ⟨slots, channels⟩ := (ownerLaw_iff s).1 law
  have freed (k : Fin 64) := cancelQueuedSlots_slot s.channels[c].queue s k
  have same := (freed 0).1
  unfold Machine.emptyQueue
  generalize s.channels[c].queue.foldl cancelQueuedSlot s = u at freed same
  have queue (d : Fin 5) : (u.modChannel c fun ch => { ch with queue := [] }).channels[d].queue
      = if c = d then [] else s.channels[d].queue := by
    rw [modChannel_channel, same]
    split <;> rfl
  have run (d : Fin 5) : (u.modChannel c fun ch => { ch with queue := [] }).channels[d].current = s.channels[d].current
      ∧ (u.modChannel c fun ch => { ch with queue := [] }).channels[d].state = s.channels[d].state := by
    rw [modChannel_channel, same]
    split
    · rename_i here
      subst here
      exact ⟨rfl, rfl⟩
    · exact ⟨rfl, rfl⟩
  refine (ownerLaw_iff _).2 ⟨fun k => ?_, fun d => ?_⟩
  · obtain ⟨places, host⟩ := slots k
    obtain ⟨_, inside, outside⟩ := freed k
    have slot : (u.modChannel c fun ch => { ch with queue := [] }).slots[k] = u.slots[k] := rfl
    unfold SlotLaw
    rw [slot]
    by_cases queued : k ∈ s.channels[c].queue
    · have place := (places c).1.1 queued
      obtain ⟨owner, holder⟩ := inside queued
      rw [owner, holder]
      refine ⟨fun d => ?_, by simp⟩
      rw [queue, (run d).1]
      refine ⟨iff_of_false ?_ (by simp), iff_of_false (fun running => ?_) (by simp)⟩
      · split
        · exact List.not_mem_nil
        · rename_i other
          intro queued'
          exact other (Option.some.inj (place.2.symm.trans ((places d).1.1 queued').2))
      · exact absurd (place.1.symm.trans ((places d).2.1 running).1) (by decide)
    · rw [outside queued]
      refine ⟨fun d => ?_, host⟩
      rw [queue, (run d).1]
      refine ⟨?_, (places d).2⟩
      split
      · rename_i here
        subst here
        exact iff_of_false List.not_mem_nil fun place => queued ((places c).1.2 place)
      · exact (places d).1
  · obtain ⟨nodup, busy⟩ := channels d
    unfold ChannelLaw
    rw [queue, (run d).1, (run d).2]
    refine ⟨?_, busy⟩
    split
    · exact List.nodup_nil
    · exact nodup

theorem emptyQueue_state (c : Fin 5) (s : State) : (emptyQueue c s).channels[c].state = s.channels[c].state := by
  have same := (cancelQueuedSlots_slot s.channels[c].queue s 0).1
  rw [emptyQueue, modChannel_self, same]

theorem OwnerLaw.cancelChannel {s : State} (law : OwnerLaw s) (c : Fin 5) : OwnerLaw (cancelChannel c s) := by
  have emptied := law.emptyQueue c
  have kept := emptyQueue_state c s
  unfold Machine.cancelChannel
  split <;> rename_i state <;> rw [state] at kept
  · exact law.refuse _ _
  · exact emptied
  · exact emptied
  · exact emptied.modChannel c _ rfl rfl (by rw [kept]; rfl)
  · exact emptied.modChannel c _ rfl rfl (by rw [kept]; rfl)
  · exact (emptied.modChannel c _ rfl rfl (by rw [kept]; rfl)).settleChannel c

theorem OwnerLaw.modCq {s : State} (law : OwnerLaw s) (f : CompletionUnit → CompletionUnit) : OwnerLaw (s.modCq f) := law

theorem OwnerLaw.modPort {s : State} (law : OwnerLaw s) (p : Fin 4) (f : StreamPort → StreamPort) :
    OwnerLaw (s.modPort p f) := law

theorem OwnerLaw.popRecord {s : State} (law : OwnerLaw s) : OwnerLaw (popRecord s) := by
  unfold Machine.popRecord
  split
  · exact law.refuse _ _
  · split
    · exact law.modCq _
    · split
      · rename_i run
        exact (law.modCq _).finishRun run
      · exact law.modCq _

theorem OwnerLaw.arrive {s : State} (law : OwnerLaw s) (p : Fin 4) (w : Word) (m : Bool) : OwnerLaw (arrive p w m s) := by
  unfold Machine.arrive
  exact iteInduction (fun _ => (offerNext_quiet _ _).ownerLaw (law.modPort p _)) fun _ => (Quiet.raise _).ownerLaw law

theorem OwnerLaw.placeWord {s : State} (law : OwnerLaw s) (p : Fin 4) : OwnerLaw (placeWord p s) := by
  unfold Machine.placeWord
  split
  · exact law
  · rename_i k i q z h w rest _
    exact ((law.modPort p _).modChannel _ (afterPlacement i q z h rest) rfl rfl rfl).settleChannel _

theorem Calm.ownerLaw {s t : State} (h : Calm s t) (law : OwnerLaw s) : OwnerLaw t := by
  obtain ⟨held, channels, host⟩ := law
  refine ⟨fun c k => ?_, fun c => ?_, fun k => ?_⟩
  · rw [(h.channel c).1, (h.channel c).2.1, (h.slot k).1, (h.slot k).2]
    exact held c k
  · rw [(h.channel c).1, (h.channel c).2.1, (h.channel c).2.2]
    exact channels c
  · rw [(h.slot k).1, (h.slot k).2]
    exact host k

theorem issue_ownerLaw {c : Choice} {s : State} (_ : Admissible s c) (law : OwnerLaw s) : OwnerLaw (issue c s) := by
  cases c with
  | openRow b row => exact law
  | shut b => exact law
  | column e => exact (issueColumn_calm e s).ownerLaw law
  | renew l => exact (issueRenew_calm l s).ownerLaw law
  | patternRead => exact (issuePattern_quiet s).ownerLaw law
  | park => exact (issuePark_quiet s).ownerLaw law

theorem OwnerLaw.channelReturn {s : State} (law : OwnerLaw s) (c : Fin 5) (i : Fin 8) (e : Issued) (k : WordClass)
    (words : List Word) : OwnerLaw (channelReturn c i e k words s) := by
  refine (law.modChannel c _ ?_ ?_ ?_).settleChannel c <;> dsimp only <;> split
  all_goals split <;> rfl

theorem OwnerLaw.deliver {s : State} (law : OwnerLaw s) (e : Issued) (k : WordClass) (words : List Word) :
    OwnerLaw (deliver e k words s) := by
  unfold Machine.deliver
  split
  · exact law.channelReturn _ _ e k words
  · exact (windowReturn_quiet e k words s).ownerLaw law
  · exact (scrubReturn_quiet k words s).ownerLaw law
  · exact law

theorem OwnerLaw.takeReturn {s : State} (law : OwnerLaw s) (flips : List StackWord) : OwnerLaw (takeReturn flips s) := by
  cases ended : endedHead s .read with
  | none =>
    simp only [Machine.takeReturn, ended]
    exact law
  | some taken =>
    simp only [Machine.takeReturn, ended]
    have left : OwnerLaw { s with issued := taken.2 } := (Calm.queues s.paq s.nextEntry s.wdb _).ownerLaw law
    exact (endTransferReset_quiet _).ownerLaw (((recordClass_quiet _ _ _ _).ownerLaw left).deliver taken.1 _ _)

/-- A write of a former run only counts up its slot's DONE_UNITS (R105). -/
theorem OwnerLaw.channelSent {s : State} (law : OwnerLaw s) (c : Fin 5) (z : Size) : OwnerLaw (channelSent c z s) := by
  have counted := law.modChannel c
    (fun ch => { ch with outstanding := ch.outstanding - 1, unitsReached := ch.unitsReached + unitsOf z }) rfl rfl rfl
  unfold Machine.channelSent
  split
  · exact counted.modSlot _ _ rfl rfl
  · exact counted.settleChannel c

theorem OwnerLaw.tellSent {s : State} (law : OwnerLaw s) (e : Issued) : OwnerLaw (tellSent e s) := by
  unfold Machine.tellSent
  split
  · exact law.channelSent _ _
  · exact (endWindow_quiet _ s).ownerLaw law
  · split
    · exact (scrubStepEnd_quiet s).ownerLaw law
    · exact law

theorem OwnerLaw.storeWords {s : State} (law : OwnerLaw s) (a : Nat) (words : List Word) :
    OwnerLaw (storeWords a words s) := law

theorem OwnerLaw.takeSent {s : State} (law : OwnerLaw s) : OwnerLaw (takeSent s) := by
  cases ended : endedHead s .write with
  | none =>
    simp only [Machine.takeSent, ended]
    exact law
  | some taken =>
    simp only [Machine.takeSent, ended]
    have left : OwnerLaw { s with issued := taken.2 } := (Calm.queues s.paq s.nextEntry s.wdb _).ownerLaw law
    have stored := left.storeWords taken.1.address (wdbWords s taken.1.buffer)
    have freed := (releaseWdb_calm taken.1.buffer _).ownerLaw stored
    exact (endTransferReset_quiet _).ownerLaw (freed.tellSent taken.1)

/-- Where every slot is the host's and no channel has a queue or a run, the owner law holds. -/
theorem ownerLaw_of_unheld {s : State} (slots : ∀ k : Fin 64, s.slots[k].owner = .host ∧ s.slots[k].holder = none)
    (channels : ∀ c : Fin 5, s.channels[c].queue = [] ∧ s.channels[c].current = none ∧ s.channels[c].state.isBusy = false) :
    OwnerLaw s := by
  refine ⟨fun c k => ?_, fun c => ?_, fun k => ?_⟩
  · rw [(channels c).1, (channels c).2.1, (slots k).1, (slots k).2]
    simp
  · rw [(channels c).1, (channels c).2.1, (channels c).2.2]
    exact ⟨List.nodup_nil, rfl⟩
  · rw [(slots k).1, (slots k).2]
    simp

/-- A transfer reset returns every slot to the host; a slot that is the host's already has no holder by the owner law. -/
theorem OwnerLaw.discardWaiting {s : State} (law : OwnerLaw s) (k : Fin 64) :
    (discardWaiting s).slots[k].owner = .host → (discardWaiting s).slots[k].holder = none := by
  obtain ⟨_, _, discarded⟩ := discardEntries_discardPart s.paq s
  rw [Machine.discardWaiting, discarded]
  exact (law.2.2 k).1

theorem Slot.atTransferReset_unheld {channels : Vector Channel 5} {d : Slot} (free : d.owner = .host → d.holder = none) :
    (d.atTransferReset channels).owner = .host ∧ (d.atTransferReset channels).holder = none := by
  unfold Slot.atTransferReset
  split
  · rename_i own
    exact ⟨own, free own⟩
  · exact ⟨rfl, rfl⟩
  · exact ⟨rfl, rfl⟩

theorem OwnerLaw.startTransferReset {s : State} (law : OwnerLaw s) : OwnerLaw (startTransferReset s) := by
  have discards (waiting : Bool) (u : State) :
      Quiet u (endTransferReset (windowAtTransferReset waiting (resetArbiter (scrubAbandon u)))) :=
    (((scrubAbandon_quiet u).trans (.modArbiter _)).trans (windowAtTransferReset_quiet _ _)).trans (endTransferReset_quiet _)
  have free := law.discardWaiting
  rw [Machine.startTransferReset]
  refine (discards _ _).ownerLaw (ownerLaw_of_unheld (fun k => ?_) fun c => ?_)
  · rw [getElem_mapVector]
    exact Slot.atTransferReset_unheld (free k)
  · rw [getElem_mapVector]
    exact ⟨rfl, rfl, rfl⟩

theorem reset_ownerLaw : OwnerLaw State.reset := by
  refine ownerLaw_of_unheld (fun k => ?_) fun c => ?_
  · simp [State.reset, Slot.reset]
  · simp [State.reset, Channel.reset, ChannelState.isBusy]

theorem Loud.ownerLaw {f : State → State} (op : Loud f) (s : State) (law : OwnerLaw s) : OwnerLaw (f s) := by
  cases op with
  | submit c k => exact law.submitTo c k
  | enable c =>
    exact iteInduction (fun off => (law.between (by rw [off]; rfl)).takeNext) fun _ => law.refuse _ _
  | resume c =>
    exact iteInduction (fun halted => (law.between (by rw [halted]; rfl)).takeNext) fun _ => law.refuse _ _
  | cancel c => exact law.cancelChannel c
  | pop => exact law.popRecord
  | transferReset => exact law.startTransferReset
  | deviceReset => exact reset_ownerLaw
  | pin => exact reset_ownerLaw
  | arrival p w m => exact law.arrive p w m
  | placement p => exact law.placeWord p
  | admission => exact (admitNext_calm s).ownerLaw law
  | slot => exact commandSlot_keeps Quiet.ownerLaw issue_ownerLaw law
  | ret flips => exact law.takeReturn flips
  | sent => exact law.takeSent

/-- Settles O59: a slot leaves its queue only to run or to go back to the host, and a channel is busy exactly from the set-up to
the close of its run. -/
theorem ownerLawKept : Obligations.OwnerLawKept := fun _ _ law => law_kept Quiet.ownerLaw Loud.ownerLaw law

end Sys2Proof.Machine
end

section
/-! SUPPORT. A released command, the passing of an mclk and the resets (R3, R140, R183). -/

namespace Sys2Proof.Machine

theorem exec_eq {i : Instr} {s t : State} (released : s.pinHeld = false) (h : operation i s = t) : exec i s = .next t := by
  rw [exec_released i released, h]

/-- A command that comes to a next state comes to its operation's. -/
theorem operation_eq {i : Instr} {s t : State} (released : s.pinHeld = false) (h : exec i s = .next t) : operation i s = t := by
  rw [exec_released i released] at h
  exact Host.Outcome.next.inj h

/-! ### A step -/

theorem step_pending (c : Instr) (s : State) : step { s with pending := c :: s.pending } = exec c s := rfl

theorem step_idle {s : State} (empty : s.pending = []) : step s = idleStep s := by
  unfold step
  rw [empty]

theorem step_ownEvent {s : State} {i : Instr} (empty : s.pending = []) (own : ownEvent s = some i) : step s = exec i s := by
  rw [step_idle empty, idleStep, own]

theorem step_noEvent {s : State} (empty : s.pending = []) (own : ownEvent s = none) : step s = .next (tick s) := by
  rw [step_idle empty, idleStep, own]

/-! ### The passing of an mclk -/

theorem scrubTimerRuns_iff (s : State) :
    s.scrubTimerRuns = true ↔ s.scrub.enable = true ∧ s.port.state = .online ∧ s.port.stopPending = false
      ∧ s.scrub.record = .empty ∧ s.scrub.offered = none := by
  simp only [State.scrubTimerRuns, Bool.and_eq_true, decide_eq_true_eq, Bool.not_eq_true', and_assoc]

theorem tick_scrub {s : State} (released : s.pinHeld = false) :
    (tick s).scrub = if s.scrubTimerRuns then { s.scrub with timer := fall s.scrub.timer } else s.scrub := by
  simp [tick, released]

theorem tick_port {s : State} (released : s.pinHeld = false) :
    (tick s).port = { s.port with settle := fall s.port.settle, xpt := fall s.port.xpt } := by
  simp [tick, released]

theorem tick_cq {s : State} (released : s.pinHeld = false) : (tick s).cq = { s.cq with timer := fall s.cq.timer } := by
  simp [tick, released]

/-- An mclk reaches the count, the command slot and the records with a timer alone. -/
theorem tick_frame {s : State} (released : s.pinHeld = false) :
    tick s = { s with
      mclk := (tick s).mclk, slotTaken := (tick s).slotTaken, banks := (tick s).banks
      layerRecords := (tick s).layerRecords, renews := (tick s).renews, port := (tick s).port, cq := (tick s).cq
      scrub := (tick s).scrub } := by
  simp [tick, released]

/-- Settles O1: the queue's front command is run, and the passing of an mclk is read off its definition field by field. -/
theorem stepTakesTheFrontCommand : Obligations.StepTakesTheFrontCommand := by
  refine ⟨step_pending, fun s empty => ⟨fun i => step_ownEvent empty, step_noEvent empty⟩, tick_held, fun s released => ?_⟩
  refine ⟨tick s, rfl, tick_mclk s released, tick_slotTaken s released, fun b => ?_, fun l => tick_layerRecord s l released,
    fun l => tick_renew s l released, tick_port released, tick_cq released, fun runs => ?_, fun stands => ?_,
    tick_frame released⟩
  · rw [tick_bank s b released]
    cases idle : s.banks[b].idle <;> rfl
  · rw [tick_scrub released, if_pos ((scrubTimerRuns_iff s).2 runs)]
    rfl
  · rw [tick_scrub released, if_neg (mt (scrubTimerRuns_iff s).1 stands)]

/-! ### The resets -/

theorem readRegister_held {s : State} (held : s.pinHeld = true) (index : BitVec 8) : readRegister s index = 0#16 := by
  simp only [readRegister, held, if_true]

/-- Settles O3: a device reset rebuilds the state whatever it was, and the pin's gate stands before every other command. -/
theorem deviceResetAndHeldPin : Obligations.DeviceResetAndHeldPin := by
  refine ⟨fun s released => ?_, fun s held => ?_⟩
  · exact ⟨exec_eq released rfl, exec_eq released rfl, exec_eq released rfl⟩
  · refine ⟨fun i other => exec_held held other, exec_release_held held, readRegister_held held, ?_, fun p => ?_⟩
    · simp [State.irqLine, held]
    · simp [State.portReady, held]

/-- Settles O5: the reset state is a closed value; the laws hold in it because nothing waits, runs or is held. -/
theorem resetValues : Obligations.ResetValues := by
  refine ⟨by decide, by decide, by decide, by decide, by decide, rfl, rfl, by decide, by decide +kernel, by decide +kernel,
    by decide, by decide, by decide, by decide, by decide, by decide, reset_debtLaw, reset_bypassLaw, reset_bounded.1,
    reset_bounded.2, reset_ownerLaw, reset_wdbLaw⟩

end Sys2Proof.Machine
end

section
/-! SUPPORT. A record written with what it holds, and the commands of the memory port and of a channel's queue. -/

namespace Sys2Proof.Machine

theorem vector_set_self {α : Type} {n : Nat} (v : Vector α n) (i : Fin n) : v.set i v[i] = v := Vector.set_getElem_self _

theorem modChannel_eq_self {s : State} {c : Fin 5} {f : Channel → Channel} (same : f s.channels[c] = s.channels[c]) :
    s.modChannel c f = s := by
  rw [State.modChannel, same, vector_set_self]

theorem modPort_eq_self {s : State} {p : Fin 4} {f : StreamPort → StreamPort} (same : f s.ports[p] = s.ports[p]) :
    s.modPort p f = s := by
  rw [State.modPort, same, vector_set_self]

/-- Two changes of one channel are one. -/
theorem modChannel_modChannel (s : State) (c : Fin 5) (f g : Channel → Channel) :
    (s.modChannel c f).modChannel c g = s.modChannel c fun ch => g (f ch) := by
  have first : (s.modChannel c f).channels[c] = f s.channels[c] := modChannel_self s c f
  rw [State.modChannel, first]
  simp only [State.modChannel, Vector.set_set]

/-! ### RECAL, STOP, PARK and UNPARK (R82, R85, R162, R164) -/

theorem inService_iff (s : State) : inService s = true ↔ s.port.state = .online ∧ s.port.stopPending = false := by
  simp only [inService, Bool.and_eq_true, decide_eq_true_eq, Bool.not_eq_true']

theorem recal_free {s : State} (free : s.transferReset = false) :
    recal s = if inService s then s.modMemPort fun m => { m with state := .recalibrating }
      else s.refuse .portState commandRegister := unlessBusy_free _ _ free

theorem park_free {s : State} (free : s.transferReset = false) :
    park s = if inService s then s.modMemPort fun m => { m with state := .parking }
      else s.refuse .portState commandRegister := unlessBusy_free _ _ free

theorem stop_free {s : State} (free : s.transferReset = false) :
    stop s = if s.port.state = .fault then enterOffline s
      else if inService s then s.modMemPort fun m => { m with stopPending := true }
      else s.refuse .portState commandRegister := unlessBusy_free _ _ free

theorem unpark_free {s : State} (free : s.transferReset = false) :
    unpark s = if s.port.state = .parked then issueUnpark (if slotCarried s then tick s else s)
      else s.refuse .portState commandRegister := unlessBusy_free _ _ free

theorem slotCarried_iff (s : State) : slotCarried s = true ↔ s.slotTaken = true ∧ s.commandBus ≠ none := by
  rw [slotCarried, Bool.and_eq_true, Option.isSome_iff_ne_none]

theorem endOfferedWindow_port (s : State) : (endOfferedWindow s).port = s.port := by
  unfold endOfferedWindow
  split <;> rfl

theorem endOfferedWindow_renews (s : State) : (endOfferedWindow s).renews = s.renews := by
  unfold endOfferedWindow
  split <;> rfl

theorem leaveService_port (s : State) : (leaveService s).port = s.port := by
  simp only [leaveService, scrubAbandon, loseContents_port, modArbiter_port, modScrub_port, dropRenewDebts]

theorem leaveService_renews (s : State) : (leaveService s).renews = (dropRenewDebts s).renews := by
  simp only [leaveService, scrubAbandon, loseContents_renews, modArbiter_renews, modScrub_renews]

theorem enterOffline_port (s : State) : (enterOffline s).port = { s.port with state := .offline, stopPending := false } := by
  rw [enterOffline, modMemPort_port, endOfferedWindow_port, leaveService_port]

/-- The entry to OFFLINE stops the renew timers and clears the debts (R87). -/
theorem enterOffline_renew (s : State) (l : Fin 2) :
    (enterOffline s).renews[l] = { s.renews[l] with timer := none, debt := 0, urgent := false } := by
  rw [enterOffline, modMemPort_renews, endOfferedWindow_renews, leaveService_renews]
  exact getElem_mapVector s.renews _ l

theorem enterOffline_keeps (s : State) :
    (enterOffline s).paq = s.paq ∧ (enterOffline s).channels = s.channels ∧ (enterOffline s).slots = s.slots
      ∧ (enterOffline s).cq = s.cq := by
  have part := enterOffline_portPart s
  unfold PortPart at part
  generalize enterOffline s = t at part
  obtain ⟨_, _, _, _, _, _, _, _, _, _, _, _, _, rfl⟩ := part
  exact ⟨rfl, rfl, rfl, rfl⟩

theorem issueUnpark_mclk (s : State) : (issueUnpark s).mclk = s.mclk := rfl

theorem commandSlot_taken {s : State} (taken : s.slotTaken = true) : commandSlot s = s := if_pos taken

/-- Settles O21: each command tests its port states first, and an UNPARK waits one mclk where the slot was used. -/
theorem portCommands : Obligations.PortCommands := by
  intro s ⟨released, free⟩ serving
  have served (h : serving) : inService s = true := (inService_iff s).2 h
  have unserved (h : ¬ serving) : ¬ inService s = true := mt (inService_iff s).1 h
  have unparks (parked : s.port.state = .parked) : operation .unpark s = issueUnpark (if slotCarried s then tick s else s) :=
    (unpark_free free).trans (if_pos parked)
  refine ⟨fun h => ?_, fun h => ?_, fun h => ?_, fun h notFault => ?_, fun fault => ?_, fun h => ?_, fun h => ?_,
    fun parked unused => ?_, fun parked taken carried => ?_, fun parked t done => ?_, fun notParked => ?_⟩
  · exact exec_eq released ((recal_free free).trans (if_pos (served h)))
  · exact exec_eq released ((recal_free free).trans (if_neg (unserved h)))
  · have notFault : s.port.state ≠ .fault := by rw [h.1]; decide
    exact exec_eq released ((stop_free free).trans ((if_neg notFault).trans (if_pos (served h))))
  · exact exec_eq released ((stop_free free).trans ((if_neg notFault).trans (if_neg (unserved h))))
  · exact ⟨_, exec_eq released ((stop_free free).trans (if_pos fault)), enterOffline_port s, enterOffline_renew s, enterOffline_keeps s⟩
  · exact exec_eq released ((park_free free).trans (if_pos (served h)))
  · exact exec_eq released ((park_free free).trans (if_neg (unserved h)))
  · have free : ¬ slotCarried s = true := by
      rw [slotCarried_iff]
      rintro ⟨taken, carried⟩
      exact unused.elim (fun h => absurd (taken.symm.trans h) (by decide)) carried
    refine exec_eq released ((unparks parked).trans ?_)
    rw [if_neg free, issueUnpark_frame]
  · refine exec_eq released ((unparks parked).trans ?_)
    rw [if_pos ((slotCarried_iff s).2 ⟨taken, carried⟩), issueUnpark_frame]
    have stack : (tick s).stack = s.stack := by rw [tick_frame released]
    have params : (tick s).param .xpt = s.param .xpt := by rw [tick_frame released]; rfl
    rw [stack, params]
  · have result : issueUnpark (if slotCarried s then tick s else s) = t :=
      (unparks parked).symm.trans (operation_eq released done)
    have pin : t.pinHeld = false := by
      have ticked : (tick s).pinHeld = false := by rw [tick_frame released]; exact released
      rw [← result]
      split
      · exact ticked
      · exact released
    refine ⟨exec_eq pin (commandSlot_taken ?_), fun taken carried => ?_⟩
    · rw [← result]
      rfl
    · rw [← result, if_pos ((slotCarried_iff s).2 ⟨taken, carried⟩), issueUnpark_mclk, tick_mclk s released]
  · exact exec_eq released ((unpark_free free).trans (if_neg notParked))

/-! ### SUBMIT (R94) -/

theorem submit_noChannel {n : Fin 8} (k : Fin 64) (s : State) (high : 5 ≤ n.val) :
    submit n k s = s.refuse .timingInvalid commandRegister := dif_neg (Nat.not_lt.2 high)

/-- What SUBMIT does, test by test. -/
theorem submitTo_accepted {c : Fin 5} {k : Fin 64} {s : State} (free : s.transferReset = false)
    (host : s.slots[k].owner = .host) (room : s.channels[c].queue.length < 8) :
    submitTo c k s = if s.channels[c].state = .idle then takeNext c (appendSlot c k s) else appendSlot c k s := by
  rw [submitTo, if_neg (by simp [free]), if_neg (not_not_intro host), if_neg (Nat.not_le.2 room)]

/-- A slot submitted to an empty queue in IDLE passes through it. -/
theorem takeNext_appendSlot {c : Fin 5} {k : Fin 64} {s : State} (empty : s.channels[c].queue = []) :
    takeNext c (appendSlot c k s) = beginRun c k
      (s.modSlot k fun d => { d with owner := .taken, holder := some c, result := .none, doneUnits := 0 }) := by
  have head : (appendSlot c k s).channels[c].queue = k :: [] := by rw [appendSlot_queue, empty, List.nil_append]
  rw [takeNext_cons head, appendSlot, modChannel_modChannel, modChannel_eq_self]
  show { s.channels[c] with queue := [] } = s.channels[c]
  rw [← empty]

/-- Settles O23: the tests stand in the definition's own order. -/
theorem submitCommand : Obligations.SubmitCommand := by
  intro n k s released
  refine ⟨fun high => exec_eq released (submit_noChannel k s high), fun c named => ?_⟩
  have submits := exec_submit_named k named released
  refine ⟨fun busy => ?_, fun free notHost => ?_, fun free host full => ?_, fun free host room notIdle => ?_,
    fun free host empty idle => ?_⟩
  · rw [submits, submitTo, if_pos busy]
    rfl
  · rw [submits, submitTo, if_neg (by simp [free]), if_pos notHost]
    rfl
  · rw [submits, submitTo, if_neg (by simp [free]), if_neg (not_not_intro host), if_pos full]
    rfl
  · rw [submits, submitTo_accepted free host room, if_neg notIdle]
    rfl
  · rw [submits, submitTo_emptyQueue free host empty, if_pos idle, takeNext_appendSlot empty]
    rfl

end Sys2Proof.Machine
end

section
/-! SUPPORT. The strobes of a port, its enable, its direction and FLUSH (R130 to R139). -/

namespace Sys2Proof.Machine

/-! ### The strobes (R133, R135, R138) -/

theorem strobeWith_inward {p : Fin 4} {s : State} (inward : s.ports[p].direction = .inward) (w : Word) (m : Bool) :
    strobeWith p w m s = arrive p w m s := by
  rw [strobeWith, inward]

theorem strobeWith_outward {p : Fin 4} {s : State} (outward : s.ports[p].direction = .outward) (w : Word) (m : Bool) :
    strobeWith p w m s = take p s := by
  rw [strobeWith, outward]

theorem strobe_outward {p : Fin 4} {s : State} (outward : s.ports[p].direction = .outward) : strobe p s = take p s := by
  rw [strobe, outward]

/-- A take at an IN port samples a free word and a free mark (R138). -/
theorem strobe_inward {p : Fin 4} {s : State} (inward : s.ports[p].direction = .inward) :
    strobe p s = arrive p (Config.undrivenWord s.freeCount) (Config.undrivenMark s.freeCount)
      { s with freeCount := s.freeCount + 1 } := by
  rw [strobe, inward]

theorem arrive_room {p : Fin 4} {s : State} (on : s.ports[p].enable = true) (room : s.ports[p].fifo.length < 32)
    (w : Word) (m : Bool) : arrive p w m s = offerNext (channelOfPort p)
      (s.modPort p fun q => { q with fifo := q.fifo ++ [(w, m)] }) :=
  if_pos (by simp only [on, Bool.true_and, decide_eq_true_eq]; exact room)

theorem arrive_lost {p : Fin 4} {s : State} (lost : s.ports[p].enable = false ∨ 32 ≤ s.ports[p].fifo.length)
    (w : Word) (m : Bool) : arrive p w m s = s.raise (.portOverrun p) := by
  refine if_neg fun ready => ?_
  obtain ⟨on, room⟩ := Bool.and_eq_true_iff.1 ready
  rcases lost with off | full
  · exact absurd (on.symm.trans off) (by decide)
  · exact Nat.not_le.2 (of_decide_eq_true room) full

theorem take_word {p : Fin 4} {s : State} {v : Word} {k : Bool} {rest : List (Word × Bool)} (on : s.ports[p].enable = true)
    (head : s.ports[p].fifo = (v, k) :: rest) :
    take p s = s.modPort p fun q => { q with fifo := rest, data := v, mark := k } := by
  simp only [take, on, head]

theorem take_empty {p : Fin 4} {s : State} (empty : s.ports[p].enable = false ∨ s.ports[p].fifo = []) :
    take p s = s.raise (.portUnderrun p) := by
  rcases empty with off | empty
  · simp only [take, off]
  · cases on : s.ports[p].enable <;> simp only [take, on, empty]

/-- Settles O31: a strobe is judged by the direction, then by the enable and the FIFO. -/
theorem portStrobes : Obligations.PortStrobes := by
  intro p w m s released
  refine ⟨fun inward on room => ?_, fun inward lost => ?_, fun v k rest outward on head => ?_, fun outward empty => ?_,
    fun outward => ?_, fun inward => ?_⟩
  · exact exec_eq released ((strobeWith_inward inward w m).trans (arrive_room on room w m))
  · exact exec_eq released ((strobeWith_inward inward w m).trans (arrive_lost lost w m))
  · exact exec_eq released ((strobe_outward outward).trans (take_word on head))
  · exact exec_eq released ((strobe_outward outward).trans (take_empty empty))
  · exact (exec_eq (i := .portArrival p w m) released (strobeWith_outward outward w m)).trans
      (exec_eq (i := .portTake p) released (strobe_outward outward)).symm
  · exact ⟨_, _, (exec_eq (i := .portTake p) released (strobe_inward inward)).trans
      (exec_eq (i := .portArrival p _ _) (s := { s with freeCount := s.freeCount + 1 }) released
        (strobeWith_inward (s := { s with freeCount := s.freeCount + 1 }) inward _ _)).symm⟩

/-! ### The enable (R130, R137) -/

theorem writeEnable_free {p : Fin 4} {s : State} (free : s.transferReset = false) (b : Bool) :
    writeEnable p (if b then 1#16 else 0#16) s = s.modPort p fun q => { q with enable := b } := by
  rw [writeEnable, unlessBusy_free _ _ free]
  cases b <;> rfl

/-- A register value other than 0 and 1 has a number other than 0 and 1. -/
theorem toNat_of_ne {v : Reg} (notZero : v ≠ 0#16) (notOne : v ≠ 1#16) : v.toNat ≠ 0 ∧ v.toNat ≠ 1 :=
  ⟨fun h => notZero (BitVec.eq_of_toNat_eq h), fun h => notOne (BitVec.eq_of_toNat_eq h)⟩

theorem writeEnable_invalid {p : Fin 4} {s : State} {v : Reg} (free : s.transferReset = false) (notZero : v ≠ 0#16)
    (notOne : v ≠ 1#16) : writeEnable p v s = s.refuse .timingInvalid (enableRegister p) := by
  obtain ⟨zero, one⟩ := toNat_of_ne notZero notOne
  rw [writeEnable, unlessBusy_free _ _ free]
  split
  · contradiction
  · contradiction
  · rfl

theorem windowAtTransferReset_ports (w : Bool) (s : State) : (windowAtTransferReset w s).ports = s.ports := by
  unfold windowAtTransferReset
  split
  · split <;> rfl
  · rfl

theorem endTransferReset_ports (s : State) : (endTransferReset s).ports = s.ports := by
  unfold endTransferReset
  split <;> rfl

theorem discardWaiting_ports (s : State) : (discardWaiting s).ports = s.ports := by
  obtain ⟨_, _, discarded⟩ := discardEntries_discardPart s.paq s
  rw [discardWaiting, discarded]

/-- A transfer reset empties the FIFOs and leaves the rest of the ports (R137). -/
theorem startTransferReset_ports (s : State) :
    (startTransferReset s).ports = mapVector s.ports fun q => { q with fifo := [] } := by
  rw [startTransferReset, endTransferReset_ports, windowAtTransferReset_ports, resetArbiter, modArbiter_ports, scrubAbandon,
    modArbiter_ports, modScrub_ports, discardWaiting_ports]

theorem startTransferReset_port (s : State) (p : Fin 4) : (startTransferReset s).ports[p] = { s.ports[p] with fifo := [] } := by
  rw [startTransferReset_ports]
  exact getElem_mapVector _ _ p

/-- What a port is ready for (R132). -/
theorem portReady_iff {s : State} (released : s.pinHeld = false) (p : Fin 4) :
    s.portReady p = true ↔ s.ports[p].enable = true ∧
      ((s.ports[p].direction = .inward ∧ s.ports[p].fifo.length < 32)
        ∨ (s.ports[p].direction = .outward ∧ s.ports[p].fifo ≠ [])) := by
  have some : 1 ≤ s.ports[p].fifo.length ↔ s.ports[p].fifo ≠ [] := List.length_pos_iff
  rw [State.portReady, released]
  simp only [Bool.not_false, Bool.true_and, Bool.and_eq_true]
  refine and_congr_right fun _ => ?_
  cases direction : s.ports[p].direction with
  | inward => simp only [decide_eq_true_eq, true_and, reduceCtorEq, false_and, or_false]
  | outward => simp only [decide_eq_true_eq, true_and, reduceCtorEq, false_and, false_or, some]

theorem channelFifo_modPort (s : State) (p : Fin 4) (f : StreamPort → StreamPort) (same : ∀ q, (f q).fifo = q.fifo)
    (c : Fin 5) : channelFifo (s.modPort p f) c = channelFifo s c := by
  unfold channelFifo
  split
  · rw [modPort_port_record]
    split
    · rename_i here
      rw [same, here]
    · rfl
  · rfl

theorem nextPlacement_modPort (s : State) (p : Fin 4) (f : StreamPort → StreamPort) (same : ∀ q, (f q).fifo = q.fifo) :
    nextPlacement (s.modPort p f) p = nextPlacement s p := by
  have fifo : (s.modPort p f).ports[p].fifo = s.ports[p].fifo := by rw [modPort_port_record, if_pos rfl, same]
  unfold nextPlacement
  rw [fifo]
  rfl

/-- Settles O32: the enable is a field of the port's record that no offer and no placement reads. -/
theorem portEnableWrite : Obligations.PortEnableWrite := by
  intro p s ⟨released, free⟩
  refine ⟨fun v b value => ?_, fun v notZero notOne => exec_eq released (writeEnable_invalid free notZero notOne)⟩
  have port : (s.modPort p fun q => { q with enable := b }).ports[p] = { s.ports[p] with enable := b } := by
    rw [modPort_port_record, if_pos rfl]
  have pin : (s.modPort p fun q => { q with enable := b }).pinHeld = false := released
  refine ⟨s.modPort p fun q => { q with enable := b }, exec_eq released (value ▸ writeEnable_free free b), rfl, fun held => ?_,
    nextPlacement_modPort s p _ fun _ => rfl, channelFifo_modPort s p _ fun _ => rfl, ?_, fun off inward w m => ?_,
    fun off outward => ?_, fun u done => ?_, fun u done => ?_⟩
  · refine modPort_eq_self ?_
    rw [← held]
  · rw [portReady_iff pin, port]
  · refine exec_eq pin ((strobeWith_inward ?_ w m).trans (arrive_lost (.inl ?_) w m)) <;> rw [port]
    · exact inward
    · exact off
  · refine exec_eq pin ((strobe_outward ?_).trans (take_empty (.inl ?_))) <;> rw [port]
    · exact outward
    · exact off
  · have result : startTransferReset (s.modPort p fun q => { q with enable := b }) = u :=
      (unlessBusy_free _ _ (by exact free)).symm.trans (operation_eq pin done)
    rw [← result, startTransferReset_port, port]
  · rw [← operation_eq pin done]
    show (Vector.replicate 4 StreamPort.reset)[p].enable = false
    simp [StreamPort.reset]

/-! ### The direction and FLUSH (R130, R135, R138, R139) -/

theorem writeDirection_locked {p : Fin 4} {s : State} (free : s.transferReset = false)
    (on : s.channels[channelOfPort p].state ≠ .off) (v : Reg) :
    writeDirection p v s = s.refuse .channelState (directionRegister p) :=
  (unlessBusy_free _ _ free).trans (if_pos on)

theorem writeDirection_turn {p : Fin 4} {s : State} (free : s.transferReset = false)
    (off : s.channels[channelOfPort p].state = .off) (d : Direction) :
    writeDirection p (if d = .outward then 1#16 else 0#16) s = s.modPort p fun q => q.turn d := by
  rw [writeDirection, unlessBusy_free _ _ free, if_neg (not_not_intro off)]
  cases d <;> rfl

theorem writeDirection_invalid {p : Fin 4} {s : State} {v : Reg} (free : s.transferReset = false)
    (off : s.channels[channelOfPort p].state = .off) (notZero : v ≠ 0#16) (notOne : v ≠ 1#16) :
    writeDirection p v s = s.refuse .timingInvalid (directionRegister p) := by
  obtain ⟨zero, one⟩ := toNat_of_ne notZero notOne
  rw [writeDirection, unlessBusy_free _ _ free, if_neg (not_not_intro off)]
  split
  · contradiction
  · contradiction
  · rfl

/-- A port that turns takes a new record; one told its own direction keeps it (R138). -/
theorem modPort_turn_same {p : Fin 4} {s : State} {d : Direction} (same : s.ports[p].direction = d) :
    (s.modPort p fun q => q.turn d) = s := modPort_eq_self (if_pos same)

theorem flush_free {n : Fin 8} {p : Fin 4} {s : State} (free : s.transferReset = false) (named : n.val = p.val) :
    flush n s = if flushable s.channels[channelOfPort p].state then s.modPort p fun q => { q with fifo := [] }
      else s.refuse .channelState commandRegister := by
  obtain ⟨p, inRange⟩ := p
  subst named
  rw [flush, unlessBusy_free _ _ free, dif_pos inRange]

theorem flush_noPort {n : Fin 8} {s : State} (free : s.transferReset = false) (high : 4 ≤ n.val) :
    flush n s = s.refuse .timingInvalid commandRegister := by
  rw [flush, unlessBusy_free _ _ free, dif_neg (Nat.not_lt.2 high)]

theorem flushable_iff (x : ChannelState) : flushable x = true ↔ x = .off ∨ x = .idle ∨ x = .halted := by
  cases x <;> simp [flushable]

theorem onChannel_busy {n : Fin 8} {s : State} (busy : s.transferReset = true) (f : Fin 5 → State → State) :
    onChannel n f s = s.refuse .resetBusy commandRegister := unlessBusy_busy _ _ busy

theorem onChannel_noChannel {n : Fin 8} {s : State} (free : s.transferReset = false) (high : 5 ≤ n.val)
    (f : Fin 5 → State → State) : onChannel n f s = s.refuse .timingInvalid commandRegister := by
  rw [onChannel, unlessBusy_free _ _ free, dif_neg (Nat.not_lt.2 high)]

/-- The four commands that name a channel. -/
theorem operation_onChannel {n : Fin 8} {i : Instr}
    (h : i = .enable n ∨ i = .disable n ∨ i = .cancel n ∨ i = .resume n) : ∃ f, operation i = onChannel n f := by
  rcases h with rfl | rfl | rfl | rfl <;> exact ⟨_, rfl⟩

/-- Settles O33: the tests of each write in the order of its definition. -/
theorem portDirectionAndFlush : Obligations.PortDirectionAndFlush := by
  refine ⟨fun p v s ⟨released, free⟩ => ?_, fun n s ⟨released, free⟩ => ⟨fun high => ?_, fun p named => ⟨fun h => ?_, fun h => ?_⟩⟩,
    fun n i s released named => ?_⟩
  · refine ⟨fun on => exec_eq released (writeDirection_locked free on v),
      fun off notZero notOne => exec_eq released (writeDirection_invalid free off notZero notOne), fun off same => ?_,
      fun off value outward => ?_, fun off value inward => ?_⟩
    · rcases same with ⟨rfl, same⟩ | ⟨rfl, same⟩
      · exact exec_eq released ((writeDirection_turn free off .inward).trans (modPort_turn_same same))
      · exact exec_eq released ((writeDirection_turn free off .outward).trans (modPort_turn_same same))
    · subst value
      have turned : s.ports[p].turn .inward = { s.ports[p] with direction := .inward, fifo := [] } := by
        rw [StreamPort.turn, if_neg (by rw [outward]; decide)]
      exact exec_eq released ((writeDirection_turn free off .inward).trans
        (congrArg (fun q => { s with ports := s.ports.set p q }) turned))
    · subst value
      have turned : s.ports[p].turn .outward = { s.ports[p] with direction := .outward, fifo := [], data := 0, mark := false } := by
        rw [StreamPort.turn, if_neg (by rw [inward]; decide)]
      exact exec_eq released ((writeDirection_turn free off .outward).trans
        (congrArg (fun q => { s with ports := s.ports.set p q }) turned))
  · exact exec_eq released (flush_noPort free high)
  · exact exec_eq released ((flush_free free named).trans (if_pos ((flushable_iff _).2 h)))
  · refine exec_eq released ((flush_free free named).trans (if_neg ?_))
    rw [flushable_iff]
    intro quiet
    have channel : s.channels[channelOfPort p].state = s.channels[p.val].state := rfl
    rw [channel] at quiet
    rcases h with h | h | h <;> rw [h] at quiet <;> simp at quiet
  · obtain ⟨f, acts⟩ := operation_onChannel named
    exact ⟨fun busy => exec_eq released ((congrFun acts s).trans (onChannel_busy busy f)),
      fun free high => exec_eq released ((congrFun acts s).trans (onChannel_noChannel free high f))⟩

end Sys2Proof.Machine
end

section
/-! SUPPORT. The scrub's control and the window's commands (R148, R149, R153, R181). -/

namespace Sys2Proof.Machine

theorem writeScrubEn_off {s : State} (free : s.transferReset = false) :
    writeScrubEn 0#16 s =
      if s.scrub.enable && s.scrub.offered.isSome then scrubAbandon (s.modScrub fun u => { u with enable := false })
      else s.modScrub fun u => { u with enable := false } := unlessBusy_free _ _ free

theorem writeScrubEn_on {s : State} (free : s.transferReset = false) :
    writeScrubEn 1#16 s = if s.scrub.enable then s else s.modScrub fun u => { u with enable := true }.load :=
  unlessBusy_free _ _ free

theorem writeScrubEn_invalid {s : State} {v : Reg} (free : s.transferReset = false) (notZero : v ≠ 0#16)
    (notOne : v ≠ 1#16) : writeScrubEn v s = s.refuse .timingInvalid scrubEnRegister := by
  obtain ⟨zero, one⟩ := toNat_of_ne notZero notOne
  rw [writeScrubEn, unlessBusy_free _ _ free]
  split
  · contradiction
  · contradiction
  · rfl

theorem modScrub_eq_self {s : State} {f : Scrub → Scrub} (same : f s.scrub = s.scrub) : s.modScrub f = s := by
  rw [State.modScrub, same]

/-- The expiry of the interval timer while the timer runs (R149). -/
theorem scrubIntervalExpired_due {s : State} (zero : s.scrub.timer = some 0) (runs : s.scrubTimerRuns = true) :
    scrubIntervalExpired s = s.modScrub fun u =>
      if s.capacity ≤ u.pointer then
        { u with timer := none, offered := some .read, pointer := 0, passCount := u.passCount + 1 }
      else { u with timer := none, offered := some .read } :=
  if_pos (by simp only [zero, runs, decide_true, Bool.and_self])

/-- Settles O44: the cases of a write to SCRUB_EN, and the pointer's wrap at the capacity. -/
theorem scrubControl : Obligations.ScrubControl := by
  intro s ⟨released, free⟩
  refine ⟨fun off => ?_, fun on => ?_, fun off => ?_, fun on none => ?_, fun on some => ?_, fun v notZero notOne => ?_,
    fun zero on online noStop empty none => ?_, ?_⟩
  · exact exec_eq released ((writeScrubEn_on free).trans (if_neg (by rw [off]; decide)))
  · exact exec_eq released ((writeScrubEn_on free).trans (if_pos on))
  · refine exec_eq released ((writeScrubEn_off free).trans ((if_neg (by simp only [off, Bool.false_and, Bool.false_eq_true, not_false_iff])).trans (modScrub_eq_self ?_)))
    rw [← off]
  · exact exec_eq released ((writeScrubEn_off free).trans (if_neg (by rw [on, none]; decide)))
  · exact exec_eq released ((writeScrubEn_off free).trans
      (if_pos (by rw [on, Option.isSome_iff_ne_none.2 some]; rfl)))
  · exact exec_eq released (writeScrubEn_invalid free notZero notOne)
  · have due := scrubIntervalExpired_due zero ((scrubTimerRuns_iff s).2 ⟨on, online, noStop, empty, none⟩)
    refine ⟨fun inside => exec_eq released (due.trans ?_), fun outside => exec_eq released (due.trans ?_)⟩
    · exact congrArg (fun u => { s with scrub := u }) (if_neg (Nat.not_le.2 inside))
    · exact congrArg (fun u => { s with scrub := u }) (if_pos outside)
  · simp only [scrubStepEnd, Scrub.stepEnd]
    rfl

/-! ### The window's commands -/

theorem windowAddressBad_iff (s : State) (z : Size) :
    windowAddressBad s z = true ↔
      s.window.address.toNat % bytesOf z ≠ 0 ∨ s.capacity < s.window.address.toNat + bytesOf z := by
  rw [windowAddressBad, Bool.or_eq_true, decide_eq_true_eq, decide_eq_true_eq]

theorem outOfService_iff (s : State) :
    ((s.port.state ≠ .online || s.port.stopPending) = true) ↔ ¬ (s.port.state = .online ∧ s.port.stopPending = false) := by
  rw [← inService_iff, inService]
  cases s.port.stopPending <;> simp

/-- The operation of a window command. -/
theorem operation_window {i : Instr} {k : Kind} {z : Size} (named : (i = .windowRead z ∧ k = .read) ∨ (i = .windowWrite z ∧ k = .write)) :
    operation i = windowCommand k z := by
  rcases named with ⟨rfl, rfl⟩ | ⟨rfl, rfl⟩ <;> rfl

/-- Settles O45: the five cases are the branches of the definition. -/
theorem windowCommands : Obligations.WindowCommands := by
  intro z k i s released named bytes bad serving ended
  have acts : operation i s = windowCommand k z s := congrFun (operation_window named) s
  have size : bytesOf z = bytes := by cases z <;> rfl
  have isBad : windowAddressBad s z = true ↔ bad := by rw [windowAddressBad_iff, size]; rfl
  refine ⟨fun busy => ?_, fun free busy => ?_, fun free idle out => ?_, fun free idle inside closed => ?_,
    fun free idle inside opened => ?_⟩
  all_goals refine exec_eq released (acts.trans ?_)
  · exact if_pos busy
  all_goals have noReset : ¬ s.transferReset = true := by rw [free]; decide
  all_goals refine (if_neg noReset).trans ?_
  · exact if_pos busy
  all_goals refine (if_neg idle).trans ?_
  · exact if_pos (isBad.2 out)
  all_goals refine (if_neg (mt isBad.1 inside)).trans ?_
  · exact if_pos ((outOfService_iff s).2 closed)
  · exact if_neg (mt (outOfService_iff s).1 (not_not_intro opened))

end Sys2Proof.Machine
end

section
/-! SUPPORT. The words of the command register (R179). -/

namespace Sys2Proof

/-! ### The fields of a word -/

theorem commandWord_toNat {code number size slot : Nat} (hc : code < 32) (hn : number < 8) (hz : size < 2) (hs : slot < 64) :
    (commandWord code number size slot).toNat = code * 2048 + number * 256 + size * 128 + slot := by
  rw [commandWord, BitVec.toNat_ofNat]
  omega

/-- The command that a code with its fields names. -/
def commandOf (n : Fin 8) (k : Fin 64) (z : Size) : Nat → Option Instr
  | 1 => some (.submit n k)
  | 2 => some (.enable n)
  | 3 => some (.disable n)
  | 4 => some (.cancel n)
  | 5 => some (.resume n)
  | 6 => some (.flush n)
  | 7 => some .start
  | 8 => some .recal
  | 9 => some .stop
  | 10 => some .park
  | 11 => some .unpark
  | 12 => some .clearFaults
  | 13 => some .pop
  | 14 => some (.windowRead z)
  | 15 => some (.windowWrite z)
  | 30 => some .transferReset
  | 31 => some .deviceReset
  | _ => none

/-- The size that bit 7 names. -/
def sizeOf (z : Nat) : Size := if z = 0 then .full else .half

theorem decodeCommand_eq (v : Reg) :
    decodeCommand v = commandOf ⟨v.toNat / 256 % 8, by omega⟩ ⟨v.toNat % 64, by omega⟩ (sizeOf (v.toNat / 128 % 2))
      (v.toNat / 2048) := rfl

theorem decodeCommand_fields {v : Reg} {n : Fin 8} {k : Fin 64} {z : Size} (number : n.val = v.toNat / 256 % 8)
    (slot : k.val = v.toNat % 64) (size : sizeOf (v.toNat / 128 % 2) = z) :
    decodeCommand v = commandOf n k z (v.toNat / 2048) := by
  have number : (⟨v.toNat / 256 % 8, by omega⟩ : Fin 8) = n := Fin.ext number.symm
  have slot : (⟨v.toNat % 64, by omega⟩ : Fin 64) = k := Fin.ext slot.symm
  rw [decodeCommand_eq, number, slot, size]

theorem sizeOf_bit7 {v : Reg} {z : Size} (h : z = .half ↔ v.getLsbD 7 = true) : sizeOf (v.toNat / 128 % 2) = z := by
  have bit : v.getLsbD 7 = true ↔ v.toNat / 128 % 2 = 1 := by
    rw [BitVec.getLsbD, Nat.testBit_eq_decide_div_mod_eq, decide_eq_true_eq]
  rw [bit] at h
  unfold sizeOf
  cases z with
  | full =>
    have : ¬ v.toNat / 128 % 2 = 1 := fun one => absurd (h.2 one) (by decide)
    exact if_pos (by omega)
  | half =>
    have := h.1 rfl
    exact if_neg (by omega)

/-- A word of a command's code and fields decodes to the command of the code. -/
theorem decodeCommand_commandWord {code : Nat} (n : Fin 8) (z : Size) (k : Fin 64) (hc : code < 32) :
    decodeCommand (commandWord code n (sizeBit z) k) = commandOf n k z code := by
  have value := commandWord_toNat hc n.isLt (show sizeBit z < 2 by cases z <;> decide) k.isLt
  have size : sizeBit z < 2 := by cases z <;> decide
  have bit : (commandWord code n (sizeBit z) k).toNat / 128 % 2 = sizeBit z := by rw [value]; omega
  rw [decodeCommand_fields (n := n) (k := k) (z := z)]
  · rw [value]
    congr 1
    omega
  · rw [value]
    omega
  · rw [value]
    omega
  · rw [bit]
    cases z <;> rfl

/-- A word with a code alone has the fields 0. -/
theorem decodeCommand_commandWord_bare {code : Nat} (hc : code < 32) :
    decodeCommand (commandWord code 0 0 0) = commandOf 0 0 .full code := decodeCommand_commandWord 0 .full 0 hc

theorem decodeCommand_encodeCommand {i : Instr} {v : Reg} (h : encodeCommand i = some v) : decodeCommand v = some i := by
  cases i <;> cases h
  case submit n k => exact decodeCommand_commandWord n .full k (by decide)
  case enable n => exact decodeCommand_commandWord n .full 0 (by decide)
  case disable n => exact decodeCommand_commandWord n .full 0 (by decide)
  case cancel n => exact decodeCommand_commandWord n .full 0 (by decide)
  case resume n => exact decodeCommand_commandWord n .full 0 (by decide)
  case flush n => exact decodeCommand_commandWord n .full 0 (by decide)
  case windowRead z => exact decodeCommand_commandWord 0 z 0 (by decide)
  case windowWrite z => exact decodeCommand_commandWord 0 z 0 (by decide)
  all_goals exact decodeCommand_commandWord_bare (by decide)

/-- The command of a code is encoded with that code. -/
theorem encodeCommand_commandOf {code : Nat} {n : Fin 8} {k : Fin 64} {z : Size} {i : Instr}
    (h : commandOf n k z code = some i) : ∃ w, encodeCommand i = some w ∧ w.toNat / 2048 = code := by
  have word {c number size slot : Nat} (hc : c < 32) (hn : number < 8) (hz : size < 2) (hs : slot < 64) :
      (commandWord c number size slot).toNat / 2048 = c := by
    rw [commandWord_toNat hc hn hz hs]
    omega
  have size : sizeBit z < 2 := by cases z <;> decide
  unfold commandOf at h
  split at h <;> cases h
  all_goals refine ⟨_, rfl, word (by decide) ?_ ?_ ?_⟩
  all_goals omega

/-- The number of a refused code names no command. -/
theorem commandOf_none {code : Nat} (n : Fin 8) (k : Fin 64) (z : Size) (h : code = 0 ∨ (16 ≤ code ∧ code ≤ 29)) :
    commandOf n k z code = none := by
  unfold commandOf
  split
  case h_18 => rfl
  all_goals omega

/-- Settles O55: the fields of a word are its digits, and a command's word puts its fields there. -/
theorem commandWordRoundTrip : Obligations.CommandWordRoundTrip := by
  refine ⟨fun i v => decodeCommand_encodeCommand, fun v i decoded => ?_, fun v n k z number slot size => ?_, fun n k z => ?_⟩
  · rw [decodeCommand_eq] at decoded
    exact encodeCommand_commandOf decoded
  · rw [decodeCommand_fields number slot (sizeOf_bit7 size)]
    rfl
  · simp only [encodeCommand, commandWord, Nat.zero_mul, Nat.add_zero, Nat.add_assoc, true_and, and_true]
    cases z <;> simp [sizeBit]

end Sys2Proof
end

section
/-! SUPPORT. The flags, the mask and the descriptor fields (R88, R89, R92, R173, R174, R175). -/

namespace Sys2Proof.Machine

/-! ### Flags and mask -/

theorem oneBit_getLsbD {j : Nat} (i : Nat) (inRange : j < 26) : (oneBit 26 i).getLsbD j = decide (j = i) := by
  simp only [oneBit, BitVec.getLsbD_shiftLeft, inRange, decide_true, Bool.true_and, BitVec.getLsbD_one]
  by_cases same : j = i
  · simp [same]
  · by_cases below : j < i
    · simp [below, same]
    · have : ¬ j - i = 0 := by omega
      simp [same, this]

theorem raise_getLsbD (f : Flag) (s : State) {j : Nat} (inRange : j < 26) :
    (s.raise f).flags.getLsbD j = (s.flags.getLsbD j || decide (j = f.position)) := by
  rw [raise_flags, BitVec.getLsbD_or, oneBit_getLsbD _ inRange]

/-- The first place of a register of flags. -/
def flagBase : FlagReg → Nat
  | .a => 0
  | .b => 16

/-- The places that a value written to a register of flags names. -/
def Names (r : FlagReg) (v : Reg) (j : Nat) : Prop :=
  flagBase r ≤ j ∧ j < flagBase r + 16 ∧ v.getLsbD (j - flagBase r) = true

theorem flagPlaces_getLsbD (r : FlagReg) (v : Reg) {j : Nat} (inRange : j < 26) :
    (flagPlaces v r).getLsbD j = true ↔ Names r v j := by
  have inside {i : Nat} (h : v.getLsbD i = true) : i < 16 := by
    refine Decidable.byContradiction fun outside => ?_
    rw [BitVec.getLsbD_of_ge v i (Nat.not_lt.1 outside)] at h
    cases h
  cases r with
  | a =>
    simp only [flagPlaces, Names, flagBase, BitVec.getLsbD_setWidth, inRange, decide_true, Bool.true_and, Nat.zero_le,
      Nat.zero_add, true_and, Nat.sub_zero]
    exact ⟨fun h => ⟨inside h, h⟩, And.right⟩
  | b =>
    simp only [flagPlaces, Names, flagBase, BitVec.getLsbD_shiftLeft, BitVec.getLsbD_setWidth, inRange, decide_true,
      Bool.true_and, Bool.and_eq_true, Bool.not_eq_true', decide_eq_false_iff_not, decide_eq_true_eq, Nat.not_lt]
    constructor
    · rintro ⟨above, _, h⟩
      exact ⟨above, by omega, h⟩
    · rintro ⟨above, _, h⟩
      exact ⟨above, by omega, h⟩

theorem flagCover_getLsbD (r : FlagReg) {j : Nat} (inRange : j < 26) :
    (flagCover r).getLsbD j = true ↔ flagBase r ≤ j ∧ j < flagBase r + 16 := by
  rw [flagCover, flagPlaces_getLsbD r _ inRange, Names]
  constructor
  · rintro ⟨low, high, _⟩
    exact ⟨low, high⟩
  · rintro ⟨low, high⟩
    have all : ∀ i : Fin 16, (0xFFFF#16).getLsbD i.val = true := by decide
    exact ⟨low, high, all ⟨j - flagBase r, by omega⟩⟩

theorem clearFlags_flags (r : FlagReg) (v : Reg) (s : State) : (clearFlags r v s).flags = s.flags &&& ~~~flagPlaces v r := by
  unfold clearFlags
  dsimp only
  split <;> split <;> rfl

theorem clearFlags_cq (r : FlagReg) (v : Reg) (s : State) : (clearFlags r v s).cq = s.cq := by
  unfold clearFlags
  dsimp only
  split <;> split <;> rfl

theorem clearFlags_channels (r : FlagReg) (v : Reg) (s : State) :
    (clearFlags r v s).channels = if (flagPlaces v r).getLsbD 6 then
      mapVector s.channels fun ch => { ch with lastRefused := none } else s.channels := by
  unfold clearFlags Flag.position
  dsimp only
  split <;> split <;> rfl

theorem clearFlags_renews (r : FlagReg) (v : Reg) (s : State) :
    (clearFlags r v s).renews = if (flagPlaces v r).getLsbD 17 then
      mapVector s.renews fun l => { l with overrun := false } else s.renews := by
  unfold clearFlags Flag.position
  dsimp only
  split <;> split <;> rfl

theorem clearFlags_frame (r : FlagReg) (v : Reg) (s : State) :
    clearFlags r v s = { s with
      flags := (clearFlags r v s).flags, channels := (clearFlags r v s).channels, renews := (clearFlags r v s).renews } := by
  unfold clearFlags
  dsimp only
  split <;> split <;> rfl

theorem writeMask_busy {s : State} (busy : s.transferReset = true) (r : FlagReg) (v : Reg) :
    writeMask r v s = s.refuse .resetBusy (maskRegister r) := unlessBusy_busy _ _ busy

theorem writeMask_free {s : State} (free : s.transferReset = false) (r : FlagReg) (v : Reg) :
    writeMask r v s = { s with mask := (s.mask &&& ~~~(flagCover r)) ||| flagPlaces v r } := unlessBusy_free _ _ free

/-- A cover takes the bits of the value and leaves the others. -/
theorem masked_getLsbD (r : FlagReg) (v : Reg) (x : BitVec 26) {j : Nat} (inRange : j < 26) :
    ((x &&& ~~~(flagCover r)) ||| flagPlaces v r).getLsbD j =
      if flagBase r ≤ j ∧ j < flagBase r + 16 then v.getLsbD (j - flagBase r) else x.getLsbD j := by
  have cover := flagCover_getLsbD r inRange
  have places := flagPlaces_getLsbD r v inRange
  simp only [BitVec.getLsbD_or, BitVec.getLsbD_and, BitVec.getLsbD_not, inRange, decide_true, Bool.true_and]
  split
  · rename_i covered
    rw [cover.2 covered]
    simp only [Bool.not_true, Bool.and_false, Bool.false_or]
    exact Bool.eq_iff_iff.2 (places.trans ⟨fun h => h.2.2, fun h => ⟨covered.1, covered.2, h⟩⟩)
  · rename_i uncovered
    rw [Bool.eq_false_iff.2 (mt cover.1 uncovered), Bool.eq_false_iff.2 (mt places.1 fun h => uncovered ⟨h.1, h.2.1⟩)]
    simp

/-- Settles O47: the places a value names, read bit by bit. -/
theorem flagClearAndMaskWrite : Obligations.FlagClearAndMaskWrite := by
  refine ⟨by decide, fun f s => ⟨fun j => raise_getLsbD f s, rfl⟩, ?_⟩
  intro r v s released base named
  have base_eq : base = flagBase r := by cases r <;> rfl
  have named_eq (j : Nat) : named j ↔ Names r v j := by rw [Names, ← base_eq]
  refine ⟨⟨clearFlags r v s, exec_eq released rfl, fun j inRange => ?_, ?_, fun c => ?_, fun l => ?_, clearFlags_frame r v s⟩,
    fun busy => ?_, fun free => ⟨_, exec_eq released (writeMask_free free r v), fun j inRange => ?_, rfl⟩⟩
  · rw [clearFlags_flags]
    simp only [BitVec.getLsbD_and, BitVec.getLsbD_not, inRange, decide_true, Bool.true_and]
    congr 2
    exact Bool.eq_iff_iff.2 ((flagPlaces_getLsbD r v inRange).trans ((named_eq j).symm.trans decide_eq_true_iff.symm))
  · rw [State.cqReady, clearFlags_cq]
    rfl
  · have place := (flagPlaces_getLsbD r v (j := 6) (by decide)).trans (named_eq 6).symm
    rw [clearFlags_channels]
    by_cases h : named 6
    · rw [if_pos h, if_pos (place.2 h), getElem_mapVector]
    · rw [if_neg h, if_neg (mt place.1 h)]
  · have place := (flagPlaces_getLsbD r v (j := 17) (by decide)).trans (named_eq 17).symm
    rw [clearFlags_renews]
    by_cases h : named 17
    · rw [if_pos h, if_pos (place.2 h), getElem_mapVector]
    · rw [if_neg h, if_neg (mt place.1 h)]
  · refine (exec_eq (i := .maskWrite r v) released (writeMask_busy busy r v)).trans ?_
    cases r <;> rfl
  · rw [masked_getLsbD r v _ inRange, ← base_eq]

/-! ### Descriptor fields -/

theorem writeField_readOnly {f : Fin 8} {s : State} (free : s.transferReset = false) (fixed : fieldReadOnly s.page f = true)
    (v : Reg) : writeField f v s = s.refuse .readOnly (fieldRegister f) := by
  rw [writeField, unlessBusy_free _ _ free, if_pos fixed]

theorem writeField_held {f : Fin 8} {s : State} (free : s.transferReset = false) (writable : fieldReadOnly s.page f = false)
    (held : s.slots[s.slotSelect].owner ≠ .host) (v : Reg) : writeField f v s = s.refuse .slotBusy (fieldRegister f) := by
  rw [writeField, unlessBusy_free _ _ free, if_neg (by rw [writable]; decide), if_pos held]

/-- The slot a field write makes, if the value names something. -/
def fieldWritten (s : State) (f : Fin 8) (v : Reg) : Option Slot :=
  if s.page then writePage1 s.slots[s.slotSelect] v f else writePage0 s.slots[s.slotSelect] v f

theorem writeField_some {f : Fin 8} {v : Reg} {s : State} {d : Slot} (free : s.transferReset = false)
    (writable : fieldReadOnly s.page f = false) (own : s.slots[s.slotSelect].owner = .host)
    (written : fieldWritten s f v = some d) : writeField f v s = { s with slots := s.slots.set s.slotSelect d } := by
  rw [writeField, unlessBusy_free _ _ free, if_neg (by rw [writable]; decide), if_neg (not_not_intro own), ← fieldWritten,
    written]
  rfl

theorem writeField_none {f : Fin 8} {v : Reg} {s : State} (free : s.transferReset = false)
    (writable : fieldReadOnly s.page f = false) (own : s.slots[s.slotSelect].owner = .host)
    (unnamed : fieldWritten s f v = none) : writeField f v s = s.refuse .timingInvalid (fieldRegister f) := by
  rw [writeField, unlessBusy_free _ _ free, if_neg (by rw [writable]; decide), if_neg (not_not_intro own), ← fieldWritten,
    unnamed]

/-- The bits of a high half above a 30-bit field are ignored. -/
theorem withHigh_thirty (x : BitVec 30) (v : Reg) :
    withHigh x v = BitVec.ofNat 30 (v.toNat % 16384 * 65536 + x.toNat % 65536) := by
  refine BitVec.eq_of_toNat_eq ?_
  rw [withHigh, BitVec.toNat_ofNat, BitVec.toNat_ofNat]
  omega

theorem bitOfReg_eq (v : Reg) : bitOfReg v = v.getLsbD 0 := by
  rw [bitOfReg, BitVec.getLsbD, Nat.testBit_eq_decide_div_mod_eq, Nat.pow_zero, Nat.div_one]

theorem opOfReg_none {v : Reg} (high : 4 ≤ v.toNat % 8) : opOfReg v = none := by
  unfold opOfReg
  split
  case h_5 => rfl
  all_goals omega

theorem opOfReg_some {v : Reg} {op : Op} (h : (op = .inbound ∧ v.toNat % 8 = 0) ∨ (op = .outbound ∧ v.toNat % 8 = 1)
    ∨ (op = .copy ∧ v.toNat % 8 = 2) ∨ (op = .fill ∧ v.toNat % 8 = 3)) : opOfReg v = some op := by
  rcases h with ⟨rfl, code⟩ | ⟨rfl, code⟩ | ⟨rfl, code⟩ | ⟨rfl, code⟩ <;> simp only [opOfReg, code]

theorem linkOfReg_slot {v : Reg} {l : Fin 64} (code : v.toNat % 128 = l.val) : linkOfReg v = some (some l) := by
  rw [linkOfReg, dif_pos (code ▸ l.isLt)]
  simp only [code]

theorem linkOfReg_noSlot {v : Reg} (high : 64 ≤ v.toNat % 128) :
    linkOfReg v = if v.toNat % 128 = 127 then some none else none := dif_neg (Nat.not_lt.2 high)

/-- Settles O48: the page and the field pick the equation of the slot written. -/
theorem descriptorFieldWrite : Obligations.DescriptorFieldWrite := by
  intro f v s ⟨released, free⟩ k d r writes
  have fixed (h : f.val = 7 ∨ (f.val = 6 ∧ s.page = true)) : fieldReadOnly s.page f = true := by
    simp only [fieldReadOnly, Bool.or_eq_true, Bool.and_eq_true, decide_eq_true_eq]
    exact h.imp_right And.symm
  have writable (h : f.val < 6 ∨ (f.val = 6 ∧ s.page = false)) : fieldReadOnly s.page f = false := by
    simp only [fieldReadOnly, Bool.or_eq_false_iff, Bool.and_eq_false_iff, decide_eq_false_iff_not]
    rcases h with low | ⟨six, page⟩
    · exact ⟨by omega, .inr (by omega)⟩
    · exact ⟨by omega, .inl page⟩
  refine ⟨fun h => exec_eq released (writeField_readOnly free (fixed h) v),
    fun h held => exec_eq released (writeField_held free (writable h) held v), fun own page => ?_, fun own page => ?_⟩
  · have field {i : Nat} {x : Slot} (at_ : f.val = i) (low : i < 7) (written : writePage0 d v i = some x) : writes x := by
      refine exec_eq released (writeField_some free (writable ((Nat.lt_or_eq_of_le (by omega)).imp_right fun six => ⟨six, page⟩)) own ?_)
      rw [fieldWritten, page, if_neg (by decide), at_]
      exact written
    have refused {i : Nat} (at_ : f.val = i) (low : i < 7) (unnamed : writePage0 d v i = none) :
        exec (.descriptorFieldWrite f v) s = .next (s.refuse .timingInvalid r) := by
      refine exec_eq released (writeField_none free (writable ((Nat.lt_or_eq_of_le (by omega)).imp_right fun six => ⟨six, page⟩)) own ?_)
      rw [fieldWritten, page, if_neg (by decide), at_]
      exact unnamed
    refine ⟨fun at_ op code => field at_ (by decide) ?_, fun at_ high => refused at_ (by decide) ?_,
      fun at_ => field at_ (by decide) rfl, fun at_ => field at_ (by decide) ?_, fun at_ => field at_ (by decide) rfl,
      fun l at_ code => field at_ (by decide) ?_, fun at_ code => field at_ (by decide) ?_,
      fun at_ high low => refused at_ (by decide) ?_, fun at_ => field at_ (by decide) ?_,
      fun at_ => field at_ (by decide) rfl⟩
    · rw [writePage0, opOfReg_some code]
      rfl
    · rw [writePage0, opOfReg_none high]
      rfl
    · rw [writePage0, withHigh_thirty]
    · rw [writePage0, linkOfReg_slot code]
      rfl
    · rw [writePage0, linkOfReg_noSlot (by omega), if_pos code]
      rfl
    · rw [writePage0, linkOfReg_noSlot high, if_neg (by omega)]
      rfl
    · rw [writePage0, bitOfReg_eq]
  · have field {i : Nat} {x : Slot} (at_ : f.val = i) (low : i < 6) (written : writePage1 d v i = some x) : writes x := by
      refine exec_eq released (writeField_some free (writable (.inl (at_ ▸ low))) own ?_)
      rw [fieldWritten, page, if_pos rfl, at_]
      exact written
    refine ⟨fun at_ => field at_ (by decide) rfl, fun at_ => field at_ (by decide) ?_, fun at_ => field at_ (by decide) rfl,
      fun at_ => field at_ (by decide) rfl, fun at_ => field at_ (by decide) ?_, fun at_ => field at_ (by decide) ?_⟩
    · rw [writePage1, withHigh_thirty]
    · rw [writePage1, bitOfReg_eq]
    · rw [writePage1, bitOfReg_eq]

end Sys2Proof.Machine
end

section
/-! SUPPORT. A write to a register, block by block of the map (11.7, R4, R156, R177 to R181). -/

namespace Sys2Proof.Machine

/-! ### The blocks of the map -/

theorem index_toNat {x : Nat} (inRange : x < 256) : (BitVec.ofNat 8 x).toNat = x := by
  rw [BitVec.toNat_ofNat]
  omega

theorem index_ne {x y : Nat} (inRange : x < 256) (other : x ≠ y) (named : y < 256) : BitVec.ofNat 8 x ≠ BitVec.ofNat 8 y :=
  fun same => other (by rw [← index_toNat inRange, same, index_toNat named])

/-- A register other than the command register and the two flag registers. -/
theorem writeRegister_other {x : Nat} {s : State} (free : s.transferReset = false) (inRange : x < 256)
    (other : x = 1 ∨ 4 ≤ x) (v : Reg) :
    writeRegister (BitVec.ofNat 8 x) v s = writeOther (BitVec.ofNat 8 x) v s := by
  rw [writeRegister, commandRegister, if_neg (index_ne inRange (y := 0) (by omega) (by decide)),
    if_neg (index_ne inRange (y := 2) (by omega) (by decide)), if_neg (index_ne inRange (y := 3) (by omega) (by decide)),
    unlessBusy_free _ _ free]

/-- The indices of the blocks of registers. -/
abbrev inBlock (x : Nat) : Prop :=
  (0x09 ≤ x ∧ x ≤ 0x10) ∨ (0x30 ≤ x ∧ x < 0x40) ∨ (0x40 ≤ x ∧ x < 0x68) ∨ (0x68 ≤ x ∧ x < 0x74) ∨ (0x80 ≤ x ∧ x < 0x95)

theorem writeOther_single {x : Nat} (inRange : x < 256) (single : ¬ inBlock x) (v : Reg) (s : State) :
    writeOther (BitVec.ofNat 8 x) v s = writeSingle x (BitVec.ofNat 8 x) v s := by
  unfold inBlock at single
  simp only [writeOther, index_toNat inRange, Bool.and_eq_true, decide_eq_true_eq]
  rw [dif_neg (by omega), if_neg (by omega), if_neg (by omega), if_neg (by omega), if_neg (by omega)]

theorem writeOther_window {i : Nat} (inRange : i < 16) (v : Reg) (s : State) :
    writeOther (BitVec.ofNat 8 (0x30 + i)) v s =
      unlessWindowBusy (BitVec.ofNat 8 (0x30 + i)) (fun w => { w with buffer := w.buffer.set i v }) s := by
  simp only [writeOther, index_toNat (show 0x30 + i < 256 by omega), Bool.and_eq_true, decide_eq_true_eq]
  rw [dif_neg (by omega), if_pos (by omega), writeWindowBlock, dif_pos (by omega)]
  simp only [Nat.add_sub_cancel_left]

theorem writeOther_channel {c : Fin 5} {item : Nat} (inRange : item < 8) (v : Reg) (s : State) :
    writeOther (BitVec.ofNat 8 (0x40 + 8 * c.val + item)) v s =
      writeChannelItem c item (BitVec.ofNat 8 (0x40 + 8 * c.val + item)) v s := by
  have number : (0x40 + 8 * c.val + item - 0x40) / 8 = c.val := by omega
  have offset : (0x40 + 8 * c.val + item - 0x40) % 8 = item := by omega
  simp only [writeOther, index_toNat (show 0x40 + 8 * c.val + item < 256 by omega), Bool.and_eq_true, decide_eq_true_eq]
  rw [dif_neg (by omega), if_neg (by omega), if_pos (by omega), writeChannelBlock, dif_pos (by omega)]
  simp only [number, offset]

theorem writeOther_portLevel {p : Fin 4} (v : Reg) (s : State) :
    writeOther (BitVec.ofNat 8 (0x6A + 3 * p.val)) v s = s.refuse .readOnly (BitVec.ofNat 8 (0x6A + 3 * p.val)) := by
  have offset : (0x6A + 3 * p.val - 0x68) % 3 = 2 := by omega
  simp only [writeOther, index_toNat (show 0x6A + 3 * p.val < 256 by omega), Bool.and_eq_true, decide_eq_true_eq]
  rw [dif_neg (by omega), if_neg (by omega), if_neg (by omega), if_pos (by omega), writePortBlock, dif_pos (by omega)]
  simp only [offset]

theorem writeOther_param (i : Fin 21) (v : Reg) (s : State) :
    writeOther (BitVec.ofNat 8 (0x80 + i.val)) v s = writeParam i (BitVec.ofNat 8 (0x80 + i.val)) v s := by
  simp only [writeOther, index_toNat (show 0x80 + i.val < 256 by omega), Bool.and_eq_true, decide_eq_true_eq]
  rw [dif_neg (by omega), if_neg (by omega), if_neg (by omega), if_neg (by omega), if_pos (by omega), writeParamBlock,
    dif_pos (by omega)]
  simp only [Nat.add_sub_cancel_left]

/-- The registers outside the blocks that can be written. -/
abbrev isWritable (x : Nat) : Prop :=
  x = 0x04 ∨ x = 0x05 ∨ x = 0x08 ∨ x = 0x1A ∨ x = 0x1B ∨ x = 0x20 ∨ x = 0x21 ∨ (0x77 ≤ x ∧ x ≤ 0x7D) ∨ x = 0xC8 ∨ x = 0xC9

theorem writeSingle_readOnly {x : Nat} (fixed : ¬ isWritable x) (index : BitVec 8) (v : Reg) (s : State) :
    writeSingle x index v s = s.refuse .readOnly index := by
  unfold isWritable at fixed
  unfold writeSingle
  split
  case h_17 => rfl
  all_goals omega

/-- A register outside the blocks, written outside a transfer reset. -/
theorem exec_registerWrite_single {x : Nat} {s : State} (working : Working s) (inRange : x < 256)
    (other : x = 1 ∨ 4 ≤ x) (single : ¬ inBlock x) (v : Reg) :
    exec (.registerWrite (BitVec.ofNat 8 x) v) s = .next (writeSingle x (BitVec.ofNat 8 x) v s) :=
  exec_eq working.1 ((writeRegister_other working.2 inRange other v).trans (writeOther_single inRange single v s))

theorem exec_registerWrite_other {x : Nat} {s t : State} {v : Reg} (working : Working s) (inRange : x < 256)
    (other : x = 1 ∨ 4 ≤ x) (h : writeOther (BitVec.ofNat 8 x) v s = t) :
    exec (.registerWrite (BitVec.ofNat 8 x) v) s = .next t :=
  exec_eq working.1 ((writeRegister_other working.2 inRange other v).trans h)

/-! ### Items with a range -/

theorem inRange_in {index : BitVec 8} {low high : Nat} {v : Reg} (set : Nat → State → State) (s : State)
    (h : low ≤ v.toNat ∧ v.toNat ≤ high) : inRange index low high v set s = set v.toNat s :=
  if_pos (by simpa only [Bool.and_eq_true, decide_eq_true_eq] using h)

theorem inRange_out {index : BitVec 8} {low high : Nat} {v : Reg} (set : Nat → State → State) (s : State)
    (h : ¬ (low ≤ v.toNat ∧ v.toNat ≤ high)) : inRange index low high v set s = s.refuse .timingInvalid index :=
  if_neg (by simpa only [Bool.and_eq_true, decide_eq_true_eq] using h)

theorem configItem_open {index : BitVec 8} {low high : Nat} {v : Reg} {set : Nat → State → State} {s : State}
    (opened : s.port.state = .offline ∨ s.port.state = .fault) :
    configItem index low high v set s = inRange index low high v set s := if_pos ((configOpen_iff s).2 opened)

theorem configItem_locked {index : BitVec 8} {low high : Nat} {v : Reg} {set : Nat → State → State} {s : State}
    (closed : ¬ (s.port.state = .offline ∨ s.port.state = .fault)) :
    configItem index low high v set s = s.refuse .configLocked index := if_neg (mt (configOpen_iff s).1 closed)

/-- What a write of a value to an item with a range comes to. -/
def TakesRange (s : State) (v : Reg) (x low high : Nat) (t : State) : Prop :=
  (low ≤ v.toNat ∧ v.toNat ≤ high → exec (.registerWrite (BitVec.ofNat 8 x) v) s = .next t)
    ∧ (¬ (low ≤ v.toNat ∧ v.toNat ≤ high) →
        exec (.registerWrite (BitVec.ofNat 8 x) v) s = .next (s.refuse .timingInvalid (BitVec.ofNat 8 x)))

theorem takesRange {s t : State} {v : Reg} {x low high : Nat} {set : Nat → State → State}
    (writes : exec (.registerWrite (BitVec.ofNat 8 x) v) s = .next (inRange (BitVec.ofNat 8 x) low high v set s))
    (taken : set v.toNat s = t) : TakesRange s v x low high t :=
  ⟨fun h => writes.trans (congrArg _ ((inRange_in set s h).trans taken)),
    fun h => writes.trans (congrArg _ (inRange_out set s h))⟩

/-- An item that stands alone in the map, with its range. -/
theorem takesRange_single {s t : State} {v : Reg} {x low high : Nat} (set : Nat → State → State) (working : Working s)
    (place : 4 ≤ x ∧ x < 256 ∧ ¬ inBlock x)
    (item : writeSingle x (BitVec.ofNat 8 x) v s = inRange (BitVec.ofNat 8 x) low high v set s)
    (taken : set v.toNat s = t) : TakesRange s v x low high t :=
  takesRange ((exec_registerWrite_single working place.2.1 (.inr place.1) place.2.2 v).trans (congrArg _ item)) taken

/-- A register of a channel. -/
theorem exec_registerWrite_channel {s : State} (working : Working s) (c : Fin 5) {x item : Nat} (inRange : item < 8)
    (place : x = 0x40 + 8 * c.val + item) (v : Reg) :
    exec (.registerWrite (BitVec.ofNat 8 x) v) s = .next (writeChannelItem c item (BitVec.ofNat 8 x) v s) := by
  subst place
  exact exec_registerWrite_other working (by omega) (by omega) (writeOther_channel inRange v s)

theorem exec_registerWrite_param {s : State} (working : Working s) (i : Fin 21) (v : Reg) :
    exec (.registerWrite (BitVec.ofNat 8 (0x80 + i.val)) v) s =
      .next (writeParam i (BitVec.ofNat 8 (0x80 + i.val)) v s) :=
  exec_registerWrite_other working (by omega) (by omega) (writeOther_param i v s)

/-- The ranges of R4. -/
theorem paramTable_range (i : Fin 21) :
    (i.val ≤ 6 ∨ (9 ≤ i.val ∧ i.val ≤ 13) → paramTable[i].low = 1 ∧ paramTable[i].high = 63)
    ∧ (i.val = 7 ∨ i.val = 8 → paramTable[i].low = 4 ∧ paramTable[i].high = 63)
    ∧ (i.val = 14 ∨ i.val = 20 → paramTable[i].low = 16 ∧ paramTable[i].high = 1023)
    ∧ (i.val = 15 → paramTable[i].low = 0 ∧ paramTable[i].high = 15)
    ∧ (i.val = 16 ∨ i.val = 17 → paramTable[i].low = 4 ∧ paramTable[i].high = 31)
    ∧ (i.val = 18 → paramTable[i].low = 16 ∧ paramTable[i].high = 4095)
    ∧ (i.val = 19 → paramTable[i].low = 1 ∧ paramTable[i].high = 65535) := by
  revert i
  decide

theorem params_toList (s : State) :
    s.params.toList = ([.a2c, .sht, .opm, .orc, .osn, .osf, .own, .csn, .csf, .w2rn, .w2rf, .r2w, .r2s, .wrs, .rnw,
      .lsw, .rdl, .wdl, .ri, .settle, .xpt] : List Param).map fun x => s.param x := by
  have places : ([.a2c, .sht, .opm, .orc, .osn, .osf, .own, .csn, .csf, .w2rn, .w2rf, .r2w, .r2s, .wrs, .rnw, .lsw, .rdl,
      .wdl, .ri, .settle, .xpt] : List Param).map Param.index = List.finRange 21 := by decide
  have values : ∀ names : List Param, names.map (fun x => s.param x) = (names.map Param.index).map fun i => s.params[i] :=
    fun names => (List.map_map (l := names) (f := Param.index) (g := fun i => s.params[i])).symm
  rw [values, places]
  refine List.ext_getElem ?_ fun i inside _ => ?_
  · rw [Vector.length_toList, List.length_map, List.length_finRange]
  · rw [List.getElem_map, List.getElem_finRange, Vector.getElem_toList]
    rfl

/-! ### LAYERS -/

theorem toNat_eq_iff {v : Reg} {n : Nat} (small : n < 65536) : v.toNat = n ↔ v = BitVec.ofNat 16 n := by
  rw [← BitVec.toNat_inj, BitVec.toNat_ofNat, Nat.mod_eq_of_lt small]

theorem writeLayers_locked {s : State} (free : s.transferReset = false)
    (closed : ¬ (s.port.state = .offline ∨ s.port.state = .fault)) (v : Reg) :
    writeLayers v s = s.refuse .configLocked layersRegister := by
  rw [writeLayers, unlessBusy_free _ _ free, if_pos (by rw [Bool.eq_false_iff.2 (mt (configOpen_iff s).1 closed)]; rfl)]

theorem writeLayers_opened {s : State} (free : s.transferReset = false)
    (opened : s.port.state = .offline ∨ s.port.state = .fault) (v : Reg) :
    writeLayers v s = if v = 1#16 then { s with layers := 1 }.modRenew 1 fun _ => Renew.reset
      else if v = 2#16 then { s with layers := 2 } else s.refuse .timingInvalid layersRegister := by
  have isOpen := (configOpen_iff s).2 opened
  rw [writeLayers, unlessBusy_free _ _ free, if_neg (by rw [isOpen]; decide)]
  have number (n : Nat) (small : n < 65536) : v = BitVec.ofNat 16 n ↔ v.toNat = n := (toNat_eq_iff small).symm
  split
  · rename_i one
    rw [if_pos ((number 1 (by decide)).2 one)]
  · rename_i two
    rw [if_neg (by rw [number 1 (by decide)]; omega), if_pos ((number 2 (by decide)).2 two)]
  · rename_i notOne notTwo
    rw [if_neg (mt (number 1 (by decide)).1 notOne), if_neg (mt (number 2 (by decide)).1 notTwo)]

/-- Settles O50: each item's write is its range behind its lock. -/
theorem registerWriteItems : Obligations.RegisterWriteItems := by
  refine ⟨fun v s working => ?_, fun v s working => ?_⟩
  · intro opened item locked
    have one : decide (v.toNat = 1) = decide (v = 1#16) := decide_eq_decide.2 (toNat_eq_iff (by decide))
    refine ⟨takesRange_single (fun n s => { s with bypassCap := n }) working (by decide) rfl rfl,
      takesRange_single (fun n s => { s with rowPolicy := if n = 0 then .keep else .shutAfterUse }) working (by decide) rfl ?_,
      takesRange_single (fun n s => { s with idleShut := n }) working (by decide) rfl rfl,
      takesRange_single (fun n s => { s with renewEn := n = 1 }) working (by decide) rfl ?_,
      takesRange_single (fun n s => s.modCq fun u => { u with threshold := n }) working (by decide) rfl rfl,
      takesRange_single (fun n s => s.modCq fun u => { u with holdoff := n }) working (by decide) rfl rfl,
      takesRange_single (fun n s => s.modScrub fun u => { u with interval := BitVec.ofNat 16 n }) working (by decide) rfl ?_,
      fun c => ⟨?_, fun off => ⟨?_, ?_⟩, fun on x named => ?_⟩,
      fun isOpen => ⟨?_, ?_, fun i low high range => ?_⟩, params_toList s, fun closed => ⟨?_, ?_, fun i => ?_⟩⟩
    · simp only [toNat_eq_iff (v := v) (n := 0) (by decide)]
    · rw [one]
    · rw [BitVec.ofNat_toNat, BitVec.setWidth_eq]
      rfl
    · exact takesRange (set := fun n s => s.modChannel c fun ch => { ch with weight := n })
        (exec_registerWrite_channel working c (item := 5) (by decide) (by omega) v) rfl
    · exact takesRange (set := fun n s => s.modChannel c fun ch => { ch with boundsBase := n })
        ((exec_registerWrite_channel working c (item := 6) (by decide) (by omega) v).trans
        (congrArg _ (if_neg (not_not_intro off)))) rfl
    · exact takesRange (set := fun n s => s.modChannel c fun ch => { ch with boundsLimit := n })
        ((exec_registerWrite_channel working c (item := 7) (by decide) (by omega) v).trans
        (congrArg _ (if_neg (not_not_intro off)))) rfl
    · rcases named with rfl | rfl
      · exact (exec_registerWrite_channel working c (item := 6) (by decide) (by omega) v).trans
          (congrArg _ (if_pos on))
      · exact (exec_registerWrite_channel working c (item := 7) (by decide) (by omega) v).trans
          (congrArg _ (if_pos on))
    · refine takesRange_single (fun n s => { s with protectEn := n = 1 }) working (by decide) (configItem_open isOpen) ?_
      rw [one]
    · exact takesRange_single (fun n s => { s with minWin := n }) working (by decide) (configItem_open isOpen) rfl
    · have bounds : paramTable[i].low = low ∧ paramTable[i].high = high := by
        obtain ⟨a, b, c, d, e, f, g⟩ := paramTable_range i
        rcases range with ⟨h, rfl, rfl⟩ | ⟨h, rfl, rfl⟩ | ⟨h, rfl, rfl⟩ | ⟨h, rfl, rfl⟩ | ⟨h, rfl, rfl⟩ | ⟨h, rfl, rfl⟩
          | ⟨h, rfl, rfl⟩
        · exact a h
        · exact b h
        · exact c h
        · exact d h
        · exact e h
        · exact f h
        · exact g h
      obtain ⟨rfl, rfl⟩ := bounds
      exact takesRange ((exec_registerWrite_param working i v).trans (congrArg _ (configItem_open isOpen))) rfl
    · exact (exec_registerWrite_single working (x := 0x7C) (by decide) (by decide) (by decide) v).trans
        (congrArg _ (configItem_locked closed))
    · exact (exec_registerWrite_single working (x := 0x7D) (by decide) (by decide) (by decide) v).trans
        (congrArg _ (configItem_locked closed))
    · exact (exec_registerWrite_param working i v).trans (congrArg _ (configItem_locked closed))
  · intro opened
    obtain ⟨released, free⟩ := working
    refine ⟨fun isOpen one => ?_, fun isOpen two => ?_, fun isOpen notOne notTwo => ?_, fun closed => ?_⟩
    · exact exec_eq released ((writeLayers_opened free isOpen v).trans (if_pos one))
    · refine exec_eq released ((writeLayers_opened free isOpen v).trans ((if_neg ?_).trans (if_pos two)))
      rw [two]
      decide
    · exact exec_eq released ((writeLayers_opened free isOpen v).trans ((if_neg notOne).trans (if_neg notTwo)))
    · exact exec_eq released (writeLayers_locked free closed v)

end Sys2Proof.Machine
end

section
/-! SUPPORT. The registers without a range, the command register and the writes refused during a transfer reset (R178 to R181). -/

namespace Sys2Proof.Machine

/-! ### The command register -/

/-- The commands of the command register do there what they do by themselves (log 17). -/
theorem runHostCommand_operation {n : Fin 8} {k : Fin 64} {z : Size} {code : Nat} {i : Instr}
    (h : commandOf n k z code = some i) : runHostCommand i = operation i := by
  unfold commandOf at h
  split at h <;> cases h <;> rfl

theorem writeRegister_command (v : Reg) (s : State) : writeRegister 0#8 v s = writeCommand v s := if_pos rfl

theorem writeCommand_some {v : Reg} {i : Instr} (decoded : decodeCommand v = some i) (s : State) :
    writeCommand v s = operation i s := by
  rw [writeCommand, decoded]
  exact congrFun (runHostCommand_operation (decodeCommand_eq v ▸ decoded)) s

theorem writeCommand_none {v : Reg} (unnamed : decodeCommand v = none) (s : State) :
    writeCommand v s = s.unlessBusy commandRegister fun s => s.refuse .timingInvalid commandRegister := by
  rw [writeCommand, unnamed]

theorem decodeCommand_none {v : Reg} (h : v.toNat / 2048 = 0 ∨ (16 ≤ v.toNat / 2048 ∧ v.toNat / 2048 ≤ 29)) :
    decodeCommand v = none := commandOf_none _ _ _ h

/-! ### Read-only registers, SLOT_SELECT and the window -/

theorem writeChannelItem_readOnly {item : Nat} (low : item < 5) (c : Fin 5) (index : BitVec 8) (v : Reg) (s : State) :
    writeChannelItem c item index v s = s.refuse .readOnly index := by
  unfold writeChannelItem
  split
  case h_4 => rfl
  all_goals omega

theorem exec_registerWrite_readOnly {x : Nat} {s : State} (working : Working s) (v : Reg)
    (fixed : (x = 0x01 ∨ (4 ≤ x ∧ x < 256)) ∧ ¬ inBlock x ∧ ¬ isWritable x) :
    exec (.registerWrite (BitVec.ofNat 8 x) v) s = .next (s.refuse .readOnly (BitVec.ofNat 8 x)) := by
  obtain ⟨named, single, fixed⟩ := fixed
  exact (exec_registerWrite_single working (by omega) (named.imp_right And.left) single v).trans
    (congrArg _ (writeSingle_readOnly fixed _ v s))

theorem getLsbD_eight (v : Reg) : v.getLsbD 8 = decide (v.toNat / 256 % 2 = 1) := by
  rw [BitVec.getLsbD, Nat.testBit_eq_decide_div_mod_eq]

theorem unlessWindowBusy_idle {index : BitVec 8} {s : State} (idle : s.window.status ≠ .busy) (f : Window → Window) :
    unlessWindowBusy index f s = s.modWindow f := if_neg idle

theorem unlessWindowBusy_busy {index : BitVec 8} {s : State} (busy : s.window.status = .busy) (f : Window → Window) :
    unlessWindowBusy index f s = s.refuse .windowBusy index := if_pos busy

/-- Settles O51: the map's blocks, and the command register by its decoder. -/
theorem registerWriteOthers : Obligations.RegisterWriteOthers := by
  intro v s working readOnly addressed
  have single (x : Nat) (place : 4 ≤ x ∧ x < 256 ∧ ¬ inBlock x) :=
    exec_registerWrite_single working place.2.1 (.inr place.1) place.2.2 v
  have window (i : Fin 16) :=
    exec_registerWrite_other working (x := 0x30 + i.val) (by omega) (by omega) (writeOther_window i.isLt v s)
  refine ⟨fun x fixed => ?_, fun k slot => ?_, fun idle => ⟨?_, ?_, fun i => ?_⟩, fun busy x named => ?_, fun i decoded => ?_,
    fun unnamed => ?_⟩
  · have alone (h : (x = 0x01 ∨ (4 ≤ x ∧ x < 256)) ∧ ¬ inBlock x ∧ ¬ isWritable x) := exec_registerWrite_readOnly working v h
    by_cases channel : 0x40 ≤ x ∧ x ≤ 0x67
    · have item : x % 8 < 5 := by
        simp only [readOnly] at fixed
        omega
      have register := exec_registerWrite_channel working ⟨(x - 0x40) / 8, by omega⟩ (x := x) (item := x % 8) (by omega)
        (by dsimp only; omega) v
      exact register.trans (congrArg _ (writeChannelItem_readOnly item _ _ v s))
    · by_cases port : 0x68 ≤ x ∧ x ≤ 0x73
      · obtain ⟨p, rfl⟩ : ∃ p : Fin 4, x = 0x6A + 3 * p.val := by
          refine ⟨⟨(x - 0x68) / 3, by omega⟩, ?_⟩
          simp only [readOnly] at fixed ⊢
          omega
        exact exec_registerWrite_other working (by omega) (by omega) (writeOther_portLevel v s)
      · refine alone ?_
        simp only [readOnly] at fixed
        simp only [inBlock, isWritable]
        omega
  · refine (single 0x08 (by decide)).trans (congrArg _ ?_)
    show writeSlotSelect v s = _
    rw [writeSlotSelect, getLsbD_eight]
    simp only [slot]
  · exact (single 0x20 (by decide)).trans (congrArg _ (unlessWindowBusy_idle idle _))
  · refine (single 0x21 (by decide)).trans (congrArg _ ((unlessWindowBusy_idle idle _).trans ?_))
    rw [State.modWindow, withHigh_thirty]
  · exact (window i).trans (congrArg _ (unlessWindowBusy_idle idle _))
  · rcases named with rfl | rfl | buffer
    · exact (single 0x20 (by decide)).trans (congrArg _ (unlessWindowBusy_busy busy _))
    · exact (single 0x21 (by decide)).trans (congrArg _ (unlessWindowBusy_busy busy _))
    · obtain ⟨i, rfl⟩ : ∃ i : Fin 16, x = 0x30 + i.val := ⟨⟨x - 0x30, by omega⟩, by dsimp only; omega⟩
      exact (window i).trans (congrArg _ (unlessWindowBusy_busy busy _))
  · exact (exec_eq (i := .registerWrite 0#8 v) working.1 ((writeRegister_command v s).trans (writeCommand_some decoded s))).trans
      (exec_released i working.1).symm
  · exact exec_eq working.1 ((writeRegister_command v s).trans
      ((writeCommand_none (decodeCommand_none unnamed) s).trans (unlessBusy_free _ _ working.2)))

/-! ### During a transfer reset (R178) -/

theorem hasOwnRow_iff (index : BitVec 8) :
    hasOwnRow index = true ↔
      let x := index.toNat
      x = 0 ∨ (2 ≤ x ∧ x ≤ 5) ∨ (9 ≤ x ∧ x ≤ 0x10) ∨ (∃ p : Fin 4, x = 0x68 + 3 * p.val ∨ x = 0x69 + 3 * p.val)
        ∨ x = 0x7B ∨ x = 0xC8 := by
  have port (x : Nat) : (∃ p : Fin 4, x = 0x68 + 3 * p.val ∨ x = 0x69 + 3 * p.val) ↔
      0x68 ≤ x ∧ x < 0x74 ∧ (x - 0x68) % 3 ≠ 2 := by
    constructor
    · rintro ⟨p, h⟩
      omega
    · intro h
      exact ⟨⟨(x - 0x68) / 3, by omega⟩, by dsimp only; omega⟩
  simp only [hasOwnRow, Bool.or_eq_true, Bool.and_eq_true, decide_eq_true_eq, port]
  omega

/-- A register without a row of its own is neither the command register nor a flag register. -/
theorem writeRegister_noOwnRow {index : BitVec 8} (other : hasOwnRow index = false) (v : Reg) (s : State) :
    writeRegister index v s = s.unlessBusy index (writeOther index v) := by
  have ne {n : BitVec 8} (own : hasOwnRow n = true) : index ≠ n := fun same => by
    rw [same, own] at other
    cases other
  rw [writeRegister, commandRegister, if_neg (ne (by decide)), if_neg (ne (by decide)), if_neg (ne (by decide))]

/-- Settles O52: each host write tests RESET_BUSY before anything else but the number of a SUBMIT. -/
theorem refusedDuringTransferReset : Obligations.RefusedDuringTransferReset := by
  intro s released reset busy
  have refuses (index : BitVec 8) (f : State → State) : s.unlessBusy index f = s.refuse .resetBusy index :=
    unlessBusy_busy index f reset
  have host {i : Instr} {x : BitVec 8} (h : operation i s = s.refuse .resetBusy x) : busy i x := exec_eq released h
  refine ⟨fun _ _ _ => rfl, hasOwnRow_iff, fun n k small => ?_, fun n => ⟨?_, ?_, ?_, ?_, ?_⟩, ⟨?_, ?_, ?_, ?_, ?_, ?_, ?_, ?_⟩,
    fun z => ⟨?_, ?_⟩, fun v => ⟨?_, ?_, ?_, ?_⟩, fun f v => ?_, fun p v => ⟨?_, ?_⟩, fun index v other => ?_,
    fun n k high => exec_eq released (submit_noChannel k s high), fun v unnamed => ?_⟩
  case refine_1 =>
    refine host ?_
    show submit n k s = _
    rw [submit, dif_pos small, submitTo, if_pos reset]
    rfl
  case refine_24 => exact host ((writeRegister_noOwnRow other v s).trans (refuses _ _))
  case refine_25 =>
    exact host ((writeRegister_command v s).trans ((writeCommand_none (decodeCommand_none unnamed) s).trans (refuses _ _)))
  all_goals exact host (if_pos reset)

end Sys2Proof.Machine
end

section
/-! SUPPORT. What a read of each register returns (11.7, R177). -/

namespace Sys2Proof.Machine

/-! ### The blocks of the map -/

/-- A released read of the register at a number returns a number. -/
abbrev Reads (s : State) (x n : Nat) : Prop := readRegister s (BitVec.ofNat 8 x) = BitVec.ofNat 16 n

/-- The indices of the blocks that are read as blocks. -/
abbrev inReadBlock (x : Nat) : Prop :=
  (0x09 ≤ x ∧ x ≤ 0x10) ∨ (0x14 ≤ x ∧ x ≤ 0x17) ∨ (0x30 ≤ x ∧ x < 0x40) ∨ (0x40 ≤ x ∧ x < 0x68) ∨ (0x68 ≤ x ∧ x < 0x74)
    ∨ (0x80 ≤ x ∧ x < 0x95) ∨ (0xA0 ≤ x ∧ x < 0xB4)

/-- A read of a released part, by the blocks of the map. -/
theorem readRegister_eq {x : Nat} {s : State} (released : s.pinHeld = false) (inRange : x < 256) :
    readRegister s (BitVec.ofNat 8 x) =
      if 0x09 ≤ x ∧ x ≤ 0x10 then
        reg (if s.page then readPage1 s.slots[s.slotSelect] (x - 0x09) else readPage0 s.slots[s.slotSelect] (x - 0x09))
      else if 0x14 ≤ x ∧ x ≤ 0x17 then reg (readHead s.cq (x - 0x14))
      else if 0x30 ≤ x ∧ x < 0x40 then reg (readWindowBlock s x)
      else if 0x40 ≤ x ∧ x < 0x68 then reg (readChannelBlock s x)
      else if 0x68 ≤ x ∧ x < 0x74 then reg (readPortBlock s x)
      else if 0x80 ≤ x ∧ x < 0x95 then reg (readParamBlock s x)
      else if 0xA0 ≤ x ∧ x < 0xB4 then reg (readLaneBlock s x)
      else reg (readSingle s x) := by
  simp only [readRegister, released, Bool.false_eq_true, if_false, index_toNat inRange, Bool.and_eq_true, decide_eq_true_eq]

section
variable {s : State} (released : s.pinHeld = false)
include released

theorem reads_single {x n : Nat} (place : x < 256 ∧ ¬ inReadBlock x) (value : readSingle s x = n) : Reads s x n := by
  obtain ⟨inRange, single⟩ := place
  rw [Reads, readRegister_eq released inRange, if_neg (by omega), if_neg (by omega), if_neg (by omega), if_neg (by omega),
    if_neg (by omega), if_neg (by omega), if_neg (by omega), value]
  rfl

theorem reads_page0 {i n : Nat} (inRange : i < 8) (page : s.page = false)
    (value : readPage0 s.slots[s.slotSelect] i = n) : Reads s (0x09 + i) n := by
  rw [Reads, readRegister_eq released (by omega), if_pos (by omega), page, if_neg (by decide), Nat.add_sub_cancel_left, value]
  rfl

theorem reads_page1 {i n : Nat} (inRange : i < 8) (page : s.page = true)
    (value : readPage1 s.slots[s.slotSelect] i = n) : Reads s (0x09 + i) n := by
  rw [Reads, readRegister_eq released (by omega), if_pos (by omega), page, if_pos rfl, Nat.add_sub_cancel_left, value]
  rfl

theorem reads_head {i n : Nat} (inRange : i < 4) (value : readHead s.cq i = n) : Reads s (0x14 + i) n := by
  rw [Reads, readRegister_eq released (by omega), if_neg (by omega), if_pos (by omega), Nat.add_sub_cancel_left, value]
  rfl

theorem reads_window (i : Fin 16) : readRegister s (BitVec.ofNat 8 (0x30 + i.val)) = s.window.buffer[i] := by
  rw [readRegister_eq released (by omega), if_neg (by omega), if_neg (by omega), if_pos (by omega), readWindowBlock,
    dif_pos (by omega)]
  simp only [Nat.add_sub_cancel_left, reg, BitVec.ofNat_toNat, BitVec.setWidth_eq]
  rfl

theorem reads_channel (c : Fin 5) {x item n : Nat} (inRange : item < 8) (place : x = 0x40 + 8 * c.val + item)
    (value : readChannel s.channels[c] item = n) : Reads s x n := by
  have number : (x - 0x40) / 8 = c.val := by omega
  have offset : (x - 0x40) % 8 = item := by omega
  rw [Reads, readRegister_eq released (by omega), if_neg (by omega), if_neg (by omega), if_neg (by omega), if_pos (by omega),
    readChannelBlock, dif_pos (by omega)]
  simp only [number, offset]
  exact congrArg reg value

theorem reads_port (p : Fin 4) {x item n : Nat} (inRange : item < 3) (place : x = 0x68 + 3 * p.val + item)
    (value : readPort s p item = n) : Reads s x n := by
  have number : (x - 0x68) / 3 = p.val := by omega
  have offset : (x - 0x68) % 3 = item := by omega
  rw [Reads, readRegister_eq released (by omega), if_neg (by omega), if_neg (by omega), if_neg (by omega), if_neg (by omega),
    if_pos (by omega), readPortBlock, dif_pos (by omega)]
  simp only [number, offset]
  exact congrArg reg value

theorem reads_param (i : Fin 21) : Reads s (0x80 + i.val) s.params[i] := by
  rw [Reads, readRegister_eq released (by omega), if_neg (by omega), if_neg (by omega), if_neg (by omega), if_neg (by omega),
    if_neg (by omega), if_pos (by omega), readParamBlock, dif_pos (by omega)]
  simp only [Nat.add_sub_cancel_left]
  rfl

theorem reads_lane (i : Fin 5) {x item n : Nat} (inRange : item < 4) (place : x = 0xA0 + 4 * i.val + item)
    (value : readLane s.port.lanes[i] item = n) : Reads s x n := by
  have number : (x - 0xA0) / 4 = i.val := by omega
  have offset : (x - 0xA0) % 4 = item := by omega
  rw [Reads, readRegister_eq released (by omega), if_neg (by omega), if_neg (by omega), if_neg (by omega), if_neg (by omega),
    if_neg (by omega), if_neg (by omega), if_pos (by omega), readLaneBlock, dif_pos (by omega)]
  simp only [number, offset]
  exact congrArg reg value

end

/-! ### The counts and the codes -/

theorem vector_toList_eq {α : Type} {n : Nat} (v : Vector α n) : v.toList = (List.finRange n).map fun i => v[i] := by
  refine List.ext_getElem (by simp) fun i _ _ => ?_
  simp

/-- A count over a table is a count over its indices. -/
theorem vector_countBy {α : Type} {n : Nat} (v : Vector α n) (p : α → Bool) :
    (v.toList.filter p).length = ((List.finRange n).filter fun i => p v[i]).length := by
  rw [vector_toList_eq, List.filter_map, List.length_map]
  rfl

theorem debtCode_eq (d : Int) : debtCode d = (d % 32).toNat := by
  rw [debtCode, BitVec.toNat_ofInt]
  rfl

theorem flagHalf_a (x : BitVec 26) : (flagHalf x .a).toNat = x.toNat % 65536 := BitVec.toNat_setWidth 16 x

theorem flagHalf_b (x : BitVec 26) : (flagHalf x .b).toNat = x.toNat / 65536 := by
  have small := x.isLt
  rw [flagHalf, BitVec.toNat_setWidth, BitVec.toNat_ushiftRight, Nat.shiftRight_eq_div_pow]
  omega

theorem regBit_decide (i : Nat) (p : Prop) [Decidable p] : regBit i (decide p) = if p then 2 ^ i else 0 := by
  rw [regBit]
  simp only [decide_eq_true_eq]

/-- The numbers of the registers that stand alone and read as something. -/
abbrev isNamed (x : Nat) : Prop :=
  (1 ≤ x ∧ x ≤ 6) ∨ x = 8 ∨ (0x18 ≤ x ∧ x ≤ 0x1B) ∨ (0x20 ≤ x ∧ x ≤ 0x22) ∨ (0x74 ≤ x ∧ x ≤ 0x7D) ∨ (0x98 ≤ x ∧ x ≤ 0x9B)
    ∨ (0xC0 ≤ x ∧ x ≤ 0xC5) ∨ (0xC8 ≤ x ∧ x ≤ 0xCE)

theorem readSingle_unnamed {x : Nat} (unnamed : ¬ isNamed x) (s : State) : readSingle s x = 0 := by
  unfold isNamed at unnamed
  unfold readSingle
  split
  case h_42 => rfl
  all_goals omega

/-! ### The paired items -/

/-- The capture of one paired item. -/
def Captures.of (k : Captures) : PairedItem → BitVec 32
  | .firstFault => k.firstFault
  | .lastCorrected => k.lastCorrected
  | .scrubPointer => k.scrubPointer
  | .scrubRecord => k.scrubRecord

theorem Captures.of_store (k : Captures) (v : BitVec 32) (item : PairedItem) : (k.store v item).of item = v := by
  cases item <;> rfl

theorem Captures.of_store_other (k : Captures) (v : BitVec 32) {item other : PairedItem} (ne : item ≠ other) :
    (k.store v item).of other = k.of other := by
  revert ne
  cases item <;> cases other <;> simp [Captures.store, Captures.of]

theorem readRegister_low {s : State} (released : s.pinHeld = false) (item : PairedItem) :
    readRegister s (lowRegister item) = BitVec.ofNat 16 (pairedValue s item % 65536) := by
  cases item <;> exact reads_single released (by decide) rfl

theorem readRegister_high {s : State} (released : s.pinHeld = false) (item : PairedItem) :
    readRegister s (highRegister item) = BitVec.ofNat 16 ((s.captures.of item).toNat / 65536) := by
  cases item <;> exact reads_single released (by decide) rfl

theorem burstCode_none_lt (item : Nat) : burstCode item none < 33554432 := (Config.absentBurst item).isLt

/-- What a whole item is made of, and that an absent burst leaves the code above it (R177). -/
theorem pairedValue_scrubRecord_empty {s : State} (empty : s.scrub.record = .empty) :
    pairedValue s .scrubRecord / 65536 / 8192 = 0 := by
  have small := burstCode_none_lt 2
  simp only [pairedValue, empty, ScrubRecord.burst, phaseCode]
  omega

theorem pairedValue_firstFault_none {s : State} (none : s.faults.first = none) (more : s.faults.more = false) :
    pairedValue s .firstFault / 65536 / 1024 = 7 := by
  have small := burstCode_none_lt 0
  simp only [pairedValue, none, more, Option.map_none, regBit, Bool.false_eq_true, if_false]
  omega

theorem pairedValue_firstFault_some {s : State} {a : Nat} {src : Source} (some : s.faults.first = some (a, src)) :
    pairedValue s .firstFault = a / 32 + 65536 * 1024 * sourceCode src + (if s.faults.more then 65536 * 32768 else 0) := by
  simp only [pairedValue, some, Option.map_some, burstCode, regBit]
  split <;> rfl

theorem pairedValue_lastCorrected_none {s : State} (none : s.faults.lastCorrected = none) :
    pairedValue s .lastCorrected / 65536 / 32768 = 0 := by
  have small := burstCode_none_lt 1
  simp only [pairedValue, none, Option.isSome_none, regBit, Bool.false_eq_true, if_false]
  omega

theorem readPaired_captured (item : PairedItem) (s : State) :
    (readPaired item s).captures.of item = BitVec.ofNat 32 (pairedValue s item) := Captures.of_store _ _ item

/-- The read of a low register captures its own item alone. -/
theorem readPaired_others (item other : PairedItem) (s : State) (ne : item ≠ other) :
    (readPaired item s).captures.of other = s.captures.of other := Captures.of_store_other _ _ ne

end Sys2Proof.Machine
end

section
/-! SUPPORT. The map of the registers, read register by register. -/

namespace Sys2Proof.Machine

theorem pairedReads (item : PairedItem) (s : State) (released : s.pinHeld = false) :
    ∃ t, exec (.pairedLowRead item) s = .next t
      ∧ t = { s with hostData := t.hostData, captures := t.captures }
      ∧ t.hostData = readRegister s (lowRegister item)
      ∧ (readRegister s (lowRegister item)).toNat = pairedValue s item % 65536
      ∧ (pairedValue s item < 4294967296 → (readRegister t (highRegister item)).toNat = pairedValue s item / 65536)
      ∧ (∀ u : State, u.pinHeld = false → u.captures = t.captures →
          readRegister u (highRegister item) = readRegister t (highRegister item))
      ∧ ∀ other, item ≠ other → t.captures.of other = s.captures.of other := by
  have released' : (readPaired item s).pinHeld = false := released
  refine ⟨readPaired item s, exec_eq released rfl, rfl, rfl, ?_, fun small => ?_, fun u free same => ?_,
    fun other ne => readPaired_others item other s ne⟩
  · rw [readRegister_low released, BitVec.toNat_ofNat]
    omega
  · rw [readRegister_high released', readPaired_captured, BitVec.toNat_ofNat, BitVec.toNat_ofNat]
    omega
  · rw [readRegister_high free, readRegister_high released', same]

/-- Settles O49: each register's number is its place in the map, read by the equation of its block. -/
theorem registerReads : Obligations.RegisterReads := by
  refine ⟨fun item s released => ?_, by decide, ⟨rfl, fun _ => rfl, rfl⟩, fun s released => ?_⟩
  · obtain ⟨t, run, frame, data, low, high, later, others⟩ := pairedReads item s released
    refine ⟨t, run, frame, data, low, high, later, ?_, ?_, ?_, ?_, ?_, ?_, ?_, ?_, others .firstFault, others .lastCorrected,
      others .scrubPointer, others .scrubRecord⟩
    · rintro rfl
      rfl
    · rintro a src rfl some
      exact pairedValue_firstFault_some some
    · rintro a rfl some
      simp only [pairedValue, some, burstCode, Option.isSome_some, regBit]
      rfl
    · rintro b x rfl record
      simp only [pairedValue, record, ScrubRecord.burst, burstCode, phaseCode]
    · rintro b held rfl record
      simp only [pairedValue, record, ScrubRecord.burst, burstCode, phaseCode]
    · rintro rfl empty
      exact pairedValue_scrubRecord_empty empty
    · rintro rfl none more
      exact pairedValue_firstFault_none none more
    · rintro rfl none
      exact pairedValue_lastCorrected_none none
  · intro reads bit slotCode resultCode portCode sweepTap refusalCode channelCode windowCode calCode d
    have single {x n : Nat} (place : x < 256 ∧ ¬ inReadBlock x) (value : readSingle s x = n) : reads x n :=
      reads_single released place value
    have page0 (i : Nat) {n : Nat} (inRange : i < 8) (page : s.page = false) (value : readPage0 d i = n) : reads (0x09 + i) n :=
      reads_page0 released inRange page value
    have page1 (i : Nat) {n : Nat} (inRange : i < 8) (page : s.page = true) (value : readPage1 d i = n) : reads (0x09 + i) n :=
      reads_page1 released inRange page value
    have head (i : Nat) {n : Nat} (inRange : i < 4) (value : readHead s.cq i = n) : reads (0x14 + i) n :=
      reads_head released inRange value
    refine ⟨single (by decide) rfl, fun _ => rfl, single (by decide) (flagHalf_a _), single (by decide) (flagHalf_b _),
      single (by decide) (flagHalf_a _), single (by decide) (flagHalf_b _), single (by decide) rfl, single (by decide) rfl,
      fun page => ⟨page0 0 (by decide) page rfl, page0 1 (by decide) page rfl, page0 2 (by decide) page rfl,
        page0 3 (by decide) page rfl, page0 4 (by decide) page rfl, page0 5 (by decide) page rfl, page0 6 (by decide) page rfl,
        page0 7 (by decide) page rfl⟩,
      fun page => ⟨page1 0 (by decide) page rfl, page1 1 (by decide) page rfl, page1 2 (by decide) page rfl,
        page1 3 (by decide) page rfl, page1 4 (by decide) page rfl, page1 5 (by decide) page rfl, page1 6 (by decide) page rfl,
        page1 7 (by decide) page rfl⟩,
      fun empty => ?_, fun x rest queue => ?_, single (by decide) rfl, single (by decide) rfl, single (by decide) rfl,
      single (by decide) rfl, single (by decide) rfl, single (by decide) rfl, single (by decide) rfl, reads_window released,
      fun c => ?_, fun p => ⟨?_, ?_, ?_⟩, single (by decide) rfl, single (by decide) (vector_countBy _ _),
      single (by decide) rfl, single (by decide) rfl, single (by decide) (regBit_decide 0 _), single (by decide) rfl,
      single (by decide) rfl, single (by decide) rfl, single (by decide) rfl, single (by decide) rfl, reads_param released,
      fun l => ?_, fun i => ?_, single (by decide) rfl, single (by decide) rfl, single (by decide) rfl, single (by decide) rfl,
      single (by decide) rfl, fun x unnamed => ?_⟩
    · have value (i : Nat) : readHead s.cq i = 0 := by simp only [readHead, empty]
      exact ⟨head 0 (by decide) (value 0), head 1 (by decide) (value 1), head 2 (by decide) (value 2),
        head 3 (by decide) (value 3)⟩
    · refine ⟨head 0 (by decide) ?_, head 1 (by decide) ?_, head 2 (by decide) ?_, head 3 (by decide) ?_⟩
      all_goals simp only [readHead, queue]
      rfl
    · have item (k : Nat) {x n : Nat} (inRange : k < 8) (place : x = 0x40 + 8 * c.val + k)
          (value : readChannel s.channels[c] k = n) : reads x n := reads_channel released c inRange place value
      have returns := vector_countBy s.channels[c].returns fun r => r ≠ .free
      refine ⟨item 0 (by decide) rfl rfl, item 1 (by decide) rfl ?_, item 2 (by decide) rfl rfl, item 3 (by decide) rfl rfl,
        item 4 (by decide) rfl rfl, item 5 (by decide) rfl rfl, item 6 (by decide) rfl rfl, item 7 (by decide) rfl rfl⟩
      rw [readChannel, returnsInUse, returns]
    · exact reads_port released p (item := 0) (by decide) rfl (regBit_decide 0 _)
    · exact reads_port released p (item := 1) (by decide) (by omega) rfl
    · exact reads_port released p (item := 2) (by decide) (by omega) rfl
    · have layers : ∀ l : Fin 2, l = 0 ∨ l = 1 := by decide
      have status (x : Nat) (value : readRenew s l 0 = x) : reads (0x98 + 2 * l.val) x := by
        obtain rfl | rfl := layers l <;> exact single (by decide) value
      have count (x : Nat) (value : readRenew s l 1 = x) : reads (0x99 + 2 * l.val) x := by
        obtain rfl | rfl := layers l <;> exact single (by decide) value
      refine ⟨fun unfitted => ⟨status 0 ?_, count 0 ?_⟩, fun fitted => ⟨status _ ?_, count _ ?_⟩⟩
      · rw [readRenew, unfitted]
        rfl
      · rw [readRenew, unfitted]
        rfl
      · rw [readRenew, fitted, if_neg (by decide), debtCode_eq]
        rfl
      · rw [readRenew, fitted, if_neg (by decide)]
    · have item (k : Nat) {x n : Nat} (inRange : k < 4) (place : x = 0xA0 + 4 * i.val + k)
          (value : readLane s.port.lanes[i] k = n) : reads x n := reads_lane released i inRange place value
      exact ⟨item 0 (by decide) rfl rfl, item 1 (by decide) rfl rfl, item 2 (by decide) rfl rfl, item 3 (by decide) rfl rfl⟩
    · have small : x < 256 := by omega
      exact single ⟨small, by unfold inReadBlock; omega⟩ (readSingle_unnamed (by unfold isNamed; omega) s)

end Sys2Proof.Machine
end

section
/-! SUPPORT. The fields of an address, and the conditions of the DRAM commands in the model's own terms (R1, R13, R18, R20, R21, R49). -/

namespace Sys2Proof.Machine

/-- Settles O6: an address is the sum of its digits. -/
theorem addressFields : Obligations.AddressFields := by
  refine ⟨fun e => ⟨rfl, rfl, rfl⟩, fun a small => ?_⟩
  have layer : (layerOf a).val = a / 536870912 % 2 := rfl
  have bank : (bankOf a).val = 16 * (layerOf a).val + 4 * bankFieldOf a + clusterOf a := rfl
  have field : bankFieldOf a < 4 ∧ clusterOf a < 4 := by
    unfold bankFieldOf clusterOf
    omega
  refine ⟨?_, ?_, field.1, field.2, ?_, ?_, ?_, bank, ?_, ?_⟩
  · simp only [layer, rowOf, bankFieldOf, clusterOf, columnOf, halfOf]
    omega
  · unfold rowOf
    omega
  · unfold columnOf
    omega
  · unfold halfOf
    omega
  · simp only [burstOf, halfOf]
    omega
  · refine Fin.ext ?_
    simp only [layerOfBank, bank]
    omega
  · simp only [clusterOfBank, bank]
    omega

/-! ### The timing of a column command (R13, R15) -/

theorem columnsPassed_iff (s : State) (c : Fin 8) :
    columnsPassed s c = true ↔
      ∀ d : Fin 8, ∀ t, s.clusters[d].lastColumn = some t → t + (if d = c then s.param .csn else s.param .csf) ≤ s.mclk := by
  simp only [columnsPassed, List.all_eq_true, List.mem_finRange, forall_const, passed_iff]

theorem writesPassed_iff (s : State) (c : Fin 8) :
    writesPassed s c = true ↔ ∀ (b : Fin 32) (t : Nat), s.banks[b].writeEnd = some t →
      t + (if clusterOfBank b = c then s.param .w2rn else s.param .w2rf) ≤ s.mclk := by
  simp only [writesPassed, List.all_eq_true, List.mem_finRange, forall_const, passed_iff]

theorem readsPassed_iff (s : State) :
    readsPassed s = true ↔ ∀ (l : Fin 2) (t : Nat), s.layerRecords[l].lastColumn = some (t, .read) →
      t + s.param .r2w ≤ s.mclk := by
  simp only [readsPassed, List.all_eq_true, List.mem_finRange, forall_const]
  refine forall_congr' fun l => ?_
  split
  case h_1 t last =>
    rw [decide_eq_true_eq]
    refine ⟨fun passed u same => ?_, fun all => all t last⟩
    cases last.symm.trans same
    exact passed
  case h_2 other =>
    refine iff_of_true rfl fun t last => absurd last (other t)

/-- The gap that a change of layers leaves on the data bus (R15). -/
def busGap (s : State) (l : Fin 2) : Nat :=
  match s.dataBus.last with
  | some (m, _) => if m = l then 0 else s.param .lsw
  | none => 0

theorem busFree_iff (s : State) (l : Fin 2) (start : Nat) :
    busFree s l start = true ↔ ∀ t, s.dataBus.ends = some t → t + busGap s l ≤ start := passed_iff

theorem columnTiming_iff (s : State) (k : Kind) (c : Fin 8) :
    columnTiming s k c = true ↔ columnsPassed s c = true ∧ busFree s (layerOfCluster c) (dataStart s k) = true
      ∧ (k = .read → writesPassed s c = true) ∧ (k = .write → readsPassed s = true) := by
  cases k <;> simp [columnTiming, and_assoc]

/-- CSN for the own cluster, CSF for every other. -/
theorem columnsPassed_split (s : State) (c : Fin 8) :
    columnsPassed s c = true ↔ (∀ t, s.clusters[c].lastColumn = some t → t + s.param .csn ≤ s.mclk)
      ∧ ∀ d : Fin 8, d ≠ c → ∀ t, s.clusters[d].lastColumn = some t → t + s.param .csf ≤ s.mclk := by
  rw [columnsPassed_iff]
  constructor
  · intro h
    refine ⟨fun t last => ?_, fun d other t last => ?_⟩
    · simpa using h c t last
    · simpa [other] using h d t last
  · rintro ⟨own, others⟩ d t last
    split
    · rename_i same
      exact own t (same ▸ last)
    · rename_i other
      exact others d other t last

/-! ### Eligibility -/

theorem heldByOverdue_eq_false (s : State) (e : Entry) :
    heldByOverdue s e = false ↔ ∀ o, (s.paq.find? fun x => x.overdue) = some o → e.id ≤ o.id := by
  have find : oldestOverdue s = s.paq.find? fun x => x.overdue := rfl
  rw [heldByOverdue, ← find]
  cases oldestOverdue s with
  | none => simp
  | some o => simp

theorem columnEligible_iff (s : State) (e : Entry) :
    columnEligible s e = true ↔ s.banks[e.bank].state = .openRow ∧ s.banks[e.bank].row = some e.row
      ∧ s.banks[e.bank].autoShut = false ∧ columnTiming s e.kind (clusterOfBank e.bank) = true ∧ e.predecessors = []
      ∧ heldByOverdue s e = false ∧ s.renews[e.layer].urgent = false ∧ (classes s).accesses = true := by
  simp only [columnEligible, Bool.and_eq_true, decide_eq_true_eq, Bool.not_eq_true', List.isEmpty_iff, and_assoc]

/-- Settles O9: the conditions in the order of the definition. -/
theorem columnEligibility : Obligations.ColumnEligibility := by
  intro s e
  rw [columnEligible_iff, columnTiming_iff, columnsPassed_split, busFree_iff, writesPassed_iff, readsPassed_iff,
    heldByOverdue_eq_false]
  constructor
  · rintro ⟨isOpen, row, noAuto, ⟨⟨own, others⟩, bus, reads, writes⟩, rest⟩
    exact ⟨isOpen, row, noAuto, own, others, reads, writes, bus, rest⟩
  · rintro ⟨isOpen, row, noAuto, own, others, reads, writes, bus, rest⟩
    exact ⟨isOpen, row, noAuto, ⟨⟨own, others⟩, bus, reads, writes⟩, rest⟩

theorem layerClosed_iff (s : State) (l : Fin 2) :
    layerClosed s l = true ↔ ∀ b : Fin 32, layerOfBank b = l → s.banks[b].state = .closed := by
  simp only [layerClosed, List.all_eq_true, List.mem_finRange, forall_const, Bool.or_eq_true, decide_eq_true_eq]
  exact forall_congr' fun b => ⟨fun h here => h.resolve_left (not_not_intro here), fun h => Decidable.or_iff_not_imp_left.2 fun here =>
    h (Decidable.not_not.1 here)⟩

theorem renewState_iff (x : PortState) :
    renewState x = true ↔ x = .calibrating ∨ x = .online ∨ x = .parking ∨ x = .recalibrating := by
  cases x <;> simp [renewState]

theorem fitted_iff (s : State) (l : Fin 2) : s.fitted l = true ↔ l.val < s.layers := by
  rw [State.fitted, decide_eq_true_eq]

theorem renewEligible_iff (s : State) (l : Fin 2) :
    renewEligible s l = true ↔ l.val < s.layers ∧ (∀ b : Fin 32, layerOfBank b = l → s.banks[b].state = .closed)
      ∧ s.layerRecords[l].renewing = none ∧ s.renewEn = true
      ∧ (s.port.state = .calibrating ∨ s.port.state = .online ∨ s.port.state = .parking ∨ s.port.state = .recalibrating) := by
  simp only [renewEligible, Bool.and_eq_true, Bool.not_eq_true', fitted_iff, layerClosed_iff, renewing_eq_false, renewState_iff]
  constructor
  · rintro ⟨⟨⟨⟨fitted, closed⟩, quiet⟩, state⟩, on⟩
    exact ⟨fitted, closed, quiet, on, state⟩
  · rintro ⟨fitted, closed, quiet, on, state⟩
    exact ⟨⟨⟨⟨fitted, closed⟩, quiet⟩, state⟩, on⟩

theorem patternEligible_iff (s : State) :
    patternEligible s = true ↔ (∃ tap, s.port.sweep = .requested tap) ∧ columnTiming s .read 0 = true
      ∧ s.layerRecords[(0 : Fin 2)].renewing = none := by
  rw [← renewing_eq_false]
  unfold patternEligible
  cases s.port.sweep <;> simp

theorem banksClosed_iff (s : State) :
    banksClosed s = true ↔ ∀ b : Fin 32, (layerOfBank b).val < s.layers → s.banks[b].state = .closed := by
  simp only [banksClosed, List.all_eq_true, List.mem_finRange, forall_const, Bool.or_eq_true, Bool.not_eq_true',
    decide_eq_true_eq]
  refine forall_congr' fun b => ?_
  rw [← fitted_iff, Decidable.or_iff_not_imp_left, Bool.not_eq_false]

theorem drainSettled_iff (s : State) :
    drainSettled s = true ↔ s.paq = [] ∧ (∀ b : Fin 32, (layerOfBank b).val < s.layers → s.banks[b].state = .closed)
      ∧ s.issued = [] ∧ ∀ t, s.dataBus.ends = some t → t ≤ s.mclk := by
  simp only [drainSettled, Bool.and_eq_true, List.isEmpty_iff, banksClosed_iff, passed_iff, Nat.add_zero, and_assoc]

theorem debtsSettled_iff (s : State) :
    debtsSettled s = true ↔ ∀ l : Fin 2, l.val < s.layers → s.renews[l].debt ≤ 0 := by
  simp only [debtsSettled, List.all_eq_true, List.mem_finRange, forall_const, Bool.or_eq_true, Bool.not_eq_true',
    decide_eq_true_eq]
  refine forall_congr' fun l => ?_
  rw [← fitted_iff, Decidable.or_iff_not_imp_left, Bool.not_eq_false]

theorem parkEligible_iff (s : State) :
    parkEligible s = true ↔ drainSettled s = true ∧ debtsSettled s = true
      ∧ ∀ l : Fin 2, s.layerRecords[l].renewing = none := by
  simp only [parkEligible, Bool.and_eq_true, Bool.not_eq_true', renewing_eq_false, and_assoc]
  exact and_congr_right fun _ => and_congr_right fun _ => (Fin.forall_fin_two (p := fun l => s.layerRecords[l].renewing = none)).symm

/-! ### The classes (R48) -/

theorem classes_accesses {s : State} (h : (classes s).accesses = true) :
    s.port.state = .online ∨ s.port.state = .parking ∨ s.port.state = .recalibrating := by
  unfold classes at h
  dsimp only at h
  split at h
  case h_7 online => exact .inl online
  case h_8 parking => exact .inr (.inl parking)
  case h_9 recalibrating => exact .inr (.inr recalibrating)
  all_goals cases h

/-- In the port states outside the service and the sweeps no class applies. -/
theorem classes_closed {s : State} (h : s.port.state = .offline ∨ s.port.state = .starting ∨ s.port.state = .fault
    ∨ s.port.state = .parked ∨ s.port.state = .unparking) : classes s = {} := by
  rcases h with h | h | h | h | h <;> simp only [classes, h]

theorem quietRenewOf_closed {s : State} (h : classes s = {}) (l : Fin 2) : quietRenewOf s l = none := by
  simp [quietRenewOf, h]

/-- Where no class applies no command is chosen. -/
theorem choose_closed {s : State} (h : classes s = {}) : choose s = none := by
  simp [choose, class7, quietRenewOf_closed h, h, applied]

/-- Settles O12: the choice is admissible, and the condition of each command is read off its eligibility. -/
theorem chosenCommandIsLegal : Obligations.ChosenCommandIsLegal := by
  intro s
  have sound := choose_sound s
  refine ⟨fun b row chosen => ?_, fun l chosen => ?_, fun b chosen => ?_, fun e chosen => ?_, fun c chosen => ?_⟩
  · have eligible : openEligible s b = true := sound _ chosen
    simp only [openEligible, Bool.and_eq_true, decide_eq_true_eq, Bool.not_eq_true', renewing_eq_false] at eligible
    obtain ⟨⟨⟨⟨⟨⟨⟨⟨⟨_, closed⟩, _⟩, _⟩, _⟩, _⟩, _⟩, urgent⟩, quiet⟩, _⟩ := eligible
    exact ⟨closed, urgent, quiet⟩
  · obtain ⟨eligible, _⟩ : Admissible s (.renew l) := sound _ chosen
    obtain ⟨fitted, closed, quiet, on, _⟩ := (renewEligible_iff s l).1 eligible
    exact ⟨on, quiet, (fitted_iff s l).2 fitted, closed⟩
  · obtain ⟨isOpen, noAuto, _⟩ := (shutEligible_iff s b).1 (sound _ chosen)
    exact ⟨isOpen, noAuto⟩
  · obtain ⟨waits, eligible⟩ : Admissible s (.column e) := sound _ chosen
    obtain ⟨isOpen, row, _, _, free, unheld, _, on⟩ := (columnEligible_iff s e).1 eligible
    exact ⟨waits, isOpen, row, free, (heldByOverdue_eq_false s e).1 unheld, classes_accesses on⟩
  · have outside (h : s.port.state = .offline ∨ s.port.state = .starting ∨ s.port.state = .fault
        ∨ s.port.state = .parked ∨ s.port.state = .unparking) : False := by
      rw [choose_closed (classes_closed h)] at chosen
      cases chosen
    exact ⟨fun h => outside (.inl h), fun h => outside (.inr (.inl h)), fun h => outside (.inr (.inr (.inl h))),
      fun h => outside (.inr (.inr (.inr (.inl h)))), fun h => outside (.inr (.inr (.inr (.inr h))))⟩

end Sys2Proof.Machine
end

section
/-! SUPPORT. The classes of the scheduler, one by one, and their order (R46 to R61). -/

namespace Sys2Proof.Machine

/-! ### Class 1 (R50) -/

theorem urgentOf_shut {s : State} {l : Fin 2} {b : Fin 32} (fitted : s.fitted l = true) (urgent : s.renews[l].urgent = true)
    (lowest : (firstFin 32 fun b => layerOfBank b = l && shutEligible s b) = some b) : urgentOf s l = some (.shut b) := by
  rw [urgentOf, if_pos (by rw [fitted, urgent]; rfl), lowest]

theorem urgentOf_noShut {s : State} {l : Fin 2} (fitted : s.fitted l = true) (urgent : s.renews[l].urgent = true)
    (noShut : ∀ b : Fin 32, layerOfBank b = l → shutEligible s b = false) :
    urgentOf s l = if renewEligible s l then some (.renew l) else none := by
  have lowest : (firstFin 32 fun b => layerOfBank b = l && shutEligible s b) = none := by
    rw [firstFin_eq_none]
    intro b
    by_cases here : layerOfBank b = l
    · rw [noShut b here, Bool.and_false]
    · rw [decide_eq_false here, Bool.false_and]
  rw [urgentOf, if_pos (by rw [fitted, urgent]; rfl), lowest]

theorem urgentOf_calm {s : State} {l : Fin 2} (h : s.fitted l = false ∨ s.renews[l].urgent = false) : urgentOf s l = none := by
  refine if_neg ?_
  rw [Bool.and_eq_true]
  rintro ⟨fitted, urgent⟩
  rcases h with h | h
  · exact absurd (fitted.symm.trans h) (by decide)
  · exact absurd (urgent.symm.trans h) (by decide)

/-! ### The order of the classes -/

theorem choose_class1 {s : State} {c : Choice} (on : (classes s).urgent = true) (h : class1 s = some c) :
    choose s = some c := by
  simp [choose, on, h, applied]

theorem class1_first {s : State} {c : Choice} (h : urgentOf s 0 = some c) : class1 s = some c := by
  rw [class1, h, Option.some_or]

theorem class1_second {s : State} (h : urgentOf s 0 = none) : class1 s = urgentOf s 1 := by
  rw [class1, h, Option.none_or]

theorem choose_class3 {s : State} {c : Choice} (on : (classes s).accesses = true) (no1 : class1 s = none)
    (no2 : class2 s = none) (h : class3 s = some c) : choose s = some c := by
  simp [choose, on, no1, no2, h, applied]

/-! ### Class 3 (R54) -/

/-- The first entry that satisfies a test, in a queue in order of age, is the oldest that does. -/
theorem oldest_of_find {l : List Entry} {p : Entry → Bool} {e : Entry} (order : l.Pairwise fun e f => e.id < f.id)
    (found : l.find? p = some e) : ∀ f ∈ l, p f = true → e.id ≤ f.id := by
  induction l with
  | nil => cases found
  | cons x xs ih =>
    rw [List.pairwise_cons] at order
    intro f mem test
    by_cases first : p x = true
    · rw [List.find?_cons_of_pos first] at found
      cases found
      rcases List.mem_cons.1 mem with rfl | later
      · exact Nat.le_refl _
      · exact Nat.le_of_lt (order.1 f later)
    · rw [List.find?_cons_of_neg first] at found
      rcases List.mem_cons.1 mem with rfl | later
      · exact absurd test first
      · exact ih order.2 found f later test

/-- The head of a queue in order of age is its oldest entry. -/
theorem oldest_of_head {l : List Entry} {e : Entry} (order : l.Pairwise fun e f => e.id < f.id)
    (first : l.head? = some e) : ∀ f ∈ l, e.id ≤ f.id := by
  cases l with
  | nil => cases first
  | cons x xs =>
    cases first
    intro f mem
    rcases List.mem_cons.1 mem with rfl | later
    · exact Nat.le_refl _
    · exact Nat.le_of_lt ((List.pairwise_cons.1 order).1 f later)

/-- The column-eligible waiting accesses, in order of age. -/
def rowHits (s : State) : List Entry := s.paq.filter (columnEligible s)

/-- The row hit that keeps the data bus in the direction of its last burst. -/
def preferredHit (s : State) : Option Entry := s.dataBus.last.bind fun last => (rowHits s).find? fun e => e.kind = last.2

theorem class3_eq (s : State) : class3 s = ((preferredHit s).or (rowHits s).head?).map .column := by
  unfold class3 preferredHit
  cases s.dataBus.last <;> rfl

theorem mem_rowHits {s : State} {e : Entry} : e ∈ rowHits s ↔ e ∈ s.paq ∧ columnEligible s e = true := List.mem_filter

theorem class3_none {s : State} (h : ∀ e ∈ s.paq, columnEligible s e = false) : class3 s = none := by
  have empty : rowHits s = [] := List.filter_eq_nil_iff.2 fun e he => by rw [h e he]; decide
  have noHit : preferredHit s = none := by
    unfold preferredHit
    rw [empty]
    cases s.dataBus.last <;> rfl
  rw [class3_eq, noHit, empty]
  rfl

theorem class3_isColumn {s : State} {e : Entry} (waits : e ∈ s.paq) (hit : columnEligible s e = true) :
    ∃ f, class3 s = some (.column f) := by
  obtain ⟨f, rest, hits⟩ := List.exists_cons_of_ne_nil (List.ne_nil_of_mem (mem_rowHits.2 ⟨waits, hit⟩))
  rw [class3_eq, hits]
  cases preferredHit s with
  | none => exact ⟨f, rfl⟩
  | some g => exact ⟨g, rfl⟩

/-- Class 3 prefers the direction of the last burst, then age (R54). -/
theorem class3_prefers {s : State} {e : Entry} (order : s.paq.Pairwise fun e f => e.id < f.id)
    (chosen : class3 s = some (.column e)) :
    (e ∈ s.paq ∧ columnEligible s e = true) ∧ (∀ f ∈ rowHits s, f.kind = e.kind → e.id ≤ f.id)
      ∧ (∀ l k, s.dataBus.last = some (l, k) → e.kind ≠ k → ∀ f ∈ rowHits s, f.kind ≠ k)
      ∧ (s.dataBus.last = none → ∀ f ∈ rowHits s, e.id ≤ f.id) := by
  have ordered : (rowHits s).Pairwise fun e f => e.id < f.id := order.filter _
  have sound : Admissible s (.column e) := class3_sound s _ chosen
  rw [class3_eq] at chosen
  obtain ⟨_, found, same⟩ := Option.map_eq_some_iff.1 chosen
  cases same
  refine ⟨sound, ?_⟩
  rcases Option.or_eq_some_iff.1 found with preferred | ⟨unpreferred, first⟩
  · obtain ⟨⟨l, k⟩, last, hit⟩ := Option.bind_eq_some_iff.1 preferred
    have kind : e.kind = k := by simpa using List.find?_some hit
    refine ⟨fun f mem same => oldest_of_find ordered hit f mem (decide_eq_true (same.trans kind)), fun m j last' other => ?_,
      fun none => ?_⟩
    · rw [last] at last'
      cases last'
      exact absurd kind other
    · rw [last] at none
      cases none
  · refine ⟨fun f mem _ => oldest_of_head ordered first f mem, fun l k last _ f mem same => ?_, fun _ => oldest_of_head ordered first⟩
    rw [preferredHit, last, Option.bind_some, List.find?_eq_none] at unpreferred
    exact unpreferred f mem (decide_eq_true same)

/-- Settles O13: classes 1 and 3 by their own definitions, and the order of the choice. -/
theorem urgentAndRowHitClasses : Obligations.UrgentAndRowHitClasses := by
  intro s
  refine ⟨fun c on first => choose_class1 on (class1_first first),
    fun c on none second => choose_class1 on ((class1_second none).trans second),
    fun l noShut fitted urgent renew => (urgentOf_noShut fitted urgent noShut).trans (if_pos renew),
    fun l b fitted urgent here shut lowest => urgentOf_shut fitted urgent (firstFin_eq_some ?_ fun d below => ?_),
    fun l h => ?_, ?_, fun e waits hit => ⟨?_, class3_isColumn waits hit⟩, class3_none, fun e waits no1 no2 hit => ?_,
    fun e order chosen => ?_, fun on no1 no2 c h => choose_class3 on no1 no2 h⟩
  · rw [shut, decide_eq_true here]
    rfl
  · rw [Bool.and_eq_false_iff, decide_eq_false_iff_not, Decidable.or_iff_not_imp_left, Decidable.not_not]
    exact fun inLayer => Bool.eq_false_iff.2 fun eligible => absurd (lowest d inLayer eligible) (Fin.not_le.2 below)
  · by_cases calm : s.fitted l = false ∨ s.renews[l].urgent = false
    · exact urgentOf_calm calm
    · rw [not_or, Bool.not_eq_false, Bool.not_eq_false] at calm
      obtain ⟨noShut, noRenew⟩ : (∀ b : Fin 32, layerOfBank b = l → shutEligible s b = false) ∧ renewEligible s l = false := by
        rcases h with h | h | h
        · exact absurd (calm.1.symm.trans h) (by decide)
        · exact absurd (calm.2.symm.trans h) (by decide)
        · exact h
      rw [urgentOf_noShut calm.1 calm.2 noShut, noRenew]
      rfl
  · rw [class1]
    cases urgentOf s 0 <;> rfl
  · exact ((columnEligible_iff s e).1 hit).2.2.2.2.2.2.2
  · obtain ⟨f, h⟩ := class3_isColumn waits hit
    have on : (classes s).accesses = true := ((columnEligible_iff s e).1 hit).2.2.2.2.2.2.2
    exact ⟨f, choose_class3 on no1 no2 h⟩
  · obtain ⟨⟨waits, hit⟩, sameKind, otherKind, noBurst⟩ := class3_prefers order chosen
    exact ⟨waits, hit, fun f mem eligible => sameKind f (mem_rowHits.2 ⟨mem, eligible⟩),
      fun l k last other f mem eligible => otherKind l k last other f (mem_rowHits.2 ⟨mem, eligible⟩),
      fun none f mem eligible => noBurst none f (mem_rowHits.2 ⟨mem, eligible⟩)⟩

/-! ### Class 2 (R52) -/

theorem class2_none {s : State} (h : (s.paq.find? fun x => x.overdue) = none) : class2 s = none := by
  rw [class2, oldestOverdue, h]
  rfl

theorem class2_some {s : State} {o : Entry} (h : (s.paq.find? fun x => x.overdue) = some o) :
    class2 s = overdueService s o := by
  rw [class2, oldestOverdue, h]
  rfl

/-- A younger hit on an open row stands in front of the overdue entry's SHUT (R52). -/
theorem olderHit_iff (s : State) (o : Entry) :
    (s.paq.any fun f => f.id < o.id && hits s o.bank f) = true ↔
      ∃ f ∈ s.paq, f.id < o.id ∧ f.bank = o.bank ∧ s.banks[o.bank].row = some f.row := by
  simp only [List.any_eq_true, hits, Bool.and_eq_true, decide_eq_true_eq]

section
variable {s : State} {o : Entry}

theorem overdueService_closed (h : s.banks[o.bank].state = .closed) :
    overdueService s o = if openEligible s o.bank then some (.openRow o.bank o.row) else none := by
  simp only [overdueService, h]

theorem overdueService_hit (h : s.banks[o.bank].state = .openRow) (row : s.banks[o.bank].row = some o.row) :
    overdueService s o = if columnEligible s o then some (.column o) else none := by
  simp only [overdueService, h, row, if_true]

theorem overdueService_conflict (h : s.banks[o.bank].state = .openRow) (row : s.banks[o.bank].row ≠ some o.row) :
    overdueService s o = if shutEligible s o.bank && !(s.paq.any fun f => f.id < o.id && hits s o.bank f) then
      some (.shut o.bank) else none := by
  simp only [overdueService, h, row, if_false]

theorem overdueService_moving (h : s.banks[o.bank].state = .opening ∨ s.banks[o.bank].state = .shutting) :
    overdueService s o = none := by
  rcases h with h | h <;> simp only [overdueService, h]

/-- A bank with auto-shut pending takes no command (R17). -/
theorem overdueService_autoShut (h : s.banks[o.bank].state = .openRow) (auto : s.banks[o.bank].autoShut = true) :
    overdueService s o = none := by
  by_cases row : s.banks[o.bank].row = some o.row
  · refine (overdueService_hit h row).trans (if_neg fun hit => ?_)
    exact absurd (auto.symm.trans ((columnEligible_iff s o).1 hit).2.2.1) (by decide)
  · refine (overdueService_conflict h row).trans (if_neg fun shut => ?_)
    exact absurd (auto.symm.trans ((shutEligible_iff s _).1 (Bool.and_eq_true_iff.1 shut).1).2.1) (by decide)

end

/-! ### Classes 4, 5, 6 and 7 (R56 to R59) -/

/-- The waiting access that class 5 serves with a SHUT. -/
def Conflicts (s : State) (e : Entry) : Prop :=
  shutEligible s e.bank = true ∧ s.banks[e.bank].row ≠ some e.row ∧ ∀ f ∈ s.paq, f.bank = e.bank → e.id ≤ f.id

theorem conflicts_iff (s : State) (e : Entry) :
    (oldestToBank s e && s.banks[e.bank].row ≠ some e.row && shutEligible s e.bank) = true ↔ Conflicts s e := by
  have oldest : oldestToBank s e = true ↔ ∀ f ∈ s.paq, f.bank = e.bank → e.id ≤ f.id := by
    simp only [oldestToBank, Bool.not_eq_true', List.any_eq_false, Bool.and_eq_true, decide_eq_true_eq, not_and]
    exact forall₂_congr fun f _ => ⟨fun h same => Nat.le_of_not_lt fun lt => h lt same,
      fun h lt same => absurd lt (Nat.not_lt.2 (h same))⟩
  simp only [Bool.and_eq_true, decide_eq_true_eq, oldest]
  exact ⟨fun ⟨⟨old, row⟩, shut⟩ => ⟨shut, row, old⟩, fun ⟨shut, row, old⟩ => ⟨⟨old, row⟩, shut⟩⟩

theorem class5_none {s : State} (h : ∀ e ∈ s.paq, ¬ Conflicts s e) : class5 s = none := by
  rw [class5, Option.map_eq_none_iff, List.find?_eq_none]
  exact fun e he => mt (conflicts_iff s e).1 (h e he)

theorem class5_oldest {s : State} {e : Entry} (order : s.paq.Pairwise fun e f => e.id < f.id) (waits : e ∈ s.paq)
    (conflict : Conflicts s e) (oldest : ∀ f ∈ s.paq, Conflicts s f → e.id ≤ f.id) : class5 s = some (.shut e.bank) := by
  rw [class5, find_oldest order waits ((conflicts_iff s e).2 conflict) fun f mem h => oldest f mem ((conflicts_iff s f).1 h)]
  rfl

theorem drainEnded_iff (s : State) :
    drainEnded s = true ↔ s.paq = [] ∧ (s.port.state = .parking ∨ s.port.state = .recalibrating
      ∨ (s.port.state = .online ∧ s.port.stopPending = true)) := by
  rw [drainEnded, Bool.and_eq_true, List.isEmpty_iff]
  refine and_congr_right fun _ => ?_
  cases s.port.state <;> simp

/-- An idle timer has expired and no waiting access hits the bank's row. -/
def IdleToShut (s : State) (b : Fin 32) : Prop :=
  s.banks[b].idle = .expired ∧ ∀ e ∈ s.paq, ¬ (e.bank = b ∧ s.banks[b].row = some e.row)

theorem class6_test (s : State) (b : Fin 32) :
    (shutEligible s b && (drainEnded s || (s.banks[b].idle = .expired && !(s.paq.any (hits s b))))) = true ↔
      shutEligible s b = true ∧ (drainEnded s = true ∨ IdleToShut s b) := by
  simp only [Bool.and_eq_true, Bool.or_eq_true, decide_eq_true_eq, Bool.not_eq_true', List.any_eq_false, hits, IdleToShut]

/-- The renew that class 7 gives a layer. -/
def RenewsQuietly (s : State) (l : Fin 2) : Prop :=
  s.renews[l].urgent = false ∧ (∀ e ∈ s.paq, e.layer ≠ l) ∧ renewEligible s l = true
    ∧ ((1 ≤ s.renews[l].debt ∧ (classes s).relaxed = true)
      ∨ (-3 ≤ s.renews[l].debt ∧ s.renews[l].debt ≤ 0 ∧ (classes s).pullIn = true))

theorem quietRenewOf_some {s : State} {l : Fin 2} (h : RenewsQuietly s l) : quietRenewOf s l = some (.renew l) := by
  unfold RenewsQuietly at h
  refine if_pos ?_
  simp only [Bool.and_eq_true, Bool.or_eq_true, decide_eq_true_eq, Bool.not_eq_true', List.any_eq_false, and_assoc]
  exact h

theorem quietRenewOf_none {s : State} {l : Fin 2} (h : ¬ RenewsQuietly s l) : quietRenewOf s l = none := by
  unfold RenewsQuietly at h
  refine if_neg ?_
  simp only [Bool.and_eq_true, Bool.or_eq_true, decide_eq_true_eq, Bool.not_eq_true', List.any_eq_false, and_assoc]
  exact h

/-! ### The whole order -/

theorem head?_filterMap_cons {α β : Type} (f : α → Option β) (x : α) (xs : List α) :
    ((x :: xs).filterMap f).head? = (f x).or (xs.filterMap f).head? := by
  cases h : f x <;> simp [h]

/-- Settles O14: the order is the definition's chain of alternatives, and each class is its own search. -/
theorem classOrder : Obligations.ClassOrder := by
  intro s k older conflict ended idle quiet
  refine ⟨?_, classes_closed, fun calibrating => ?_, fun online => ⟨fun h => ?_, fun stop empty => ?_⟩,
    fun parking => ⟨fun waits => ?_, fun empty => ?_⟩,
    fun recal => ⟨fun sweep => ?_, fun sweep empty => ?_, fun sweep waits => ?_⟩, class2_none,
    fun o found => ⟨fun closed => ?_, fun isOpen row => ?_, fun isOpen row => ⟨fun shut older => ?_, fun h => ?_⟩, fun h => ?_⟩,
    fun h => ?_, fun e waits order eligible oldest => ?_, class5_none,
    fun e waits order conflicts oldest => class5_oldest order waits conflicts oldest, fun h => ?_, fun b shut on lowest => ?_,
    fun h => ?_, fun h0 h1 => ?_, fun h0 h1 => ?_, renewEligible_iff s, ?_, ?_⟩
  · simp only [head?_filterMap_cons, List.filterMap_nil, List.head?_nil, Option.or_none, if_true]
    rfl
  · simp only [k, classes, calibrating]
  · have serving : ¬ (s.port.stopPending && s.paq.isEmpty) = true := by
      rw [Bool.and_eq_true, List.isEmpty_iff]
      rintro ⟨stop, empty⟩
      exact h.elim (fun noStop => absurd (stop.symm.trans noStop) (by decide)) fun waits => waits empty
    simp only [k, classes, online, serving]
    rfl
  · simp only [k, classes, online, stop, empty]
    rfl
  · simp only [k, classes, parking, List.isEmpty_iff, waits, if_false]
  · simp only [k, classes, parking, empty]
    rfl
  · simp only [k, classes, recal, ne_eq, sweep, not_false_iff, if_true]
  · simp only [k, classes, recal, ne_eq, sweep, not_true, if_false, empty]
    rfl
  · simp only [k, classes, recal, ne_eq, sweep, not_true, if_false, List.isEmpty_iff, waits]
  · exact (class2_some found).trans (overdueService_closed closed)
  · exact (class2_some found).trans (overdueService_hit isOpen row)
  · refine (class2_some found).trans ((overdueService_conflict isOpen row).trans (if_pos ?_))
    rw [Bool.and_eq_true, Bool.not_eq_true', ← Bool.not_eq_true, olderHit_iff]
    exact ⟨shut, fun ⟨f, mem, lt, hit⟩ => older f mem lt hit⟩
  · refine (class2_some found).trans ((overdueService_conflict isOpen row).trans (if_neg ?_))
    rw [Bool.and_eq_true, Bool.not_eq_true', ← Bool.not_eq_true, olderHit_iff]
    rintro ⟨shut, none⟩
    exact h.elim (fun noShut => absurd (shut.symm.trans noShut) (by decide)) none
  · rw [class2_some found]
    rcases h with opening | shutting | ⟨isOpen, auto⟩
    · exact overdueService_moving (.inl opening)
    · exact overdueService_moving (.inr shutting)
    · exact overdueService_autoShut isOpen auto
  · rw [class4, Option.map_eq_none_iff, List.find?_eq_none]
    exact fun e he => by rw [h e he]; decide
  · rw [class4, find_oldest order waits eligible oldest]
    rfl
  · rw [class6, Option.map_eq_none_iff, firstFin_eq_none]
    intro b
    rw [← Bool.not_eq_true, class6_test, drainEnded_iff]
    rintro ⟨shut, on⟩
    exact on.elim (h b shut).1 (h b shut).2
  · rw [class6, firstFin_eq_some ((class6_test s b).2 ⟨shut, on.imp_left (drainEnded_iff s).2⟩) fun d below => ?_]
    · rfl
    · rw [← Bool.not_eq_true, class6_test, drainEnded_iff]
      rintro ⟨shut, on⟩
      exact on.elim (lowest d below shut).1 (lowest d below shut).2
  · rw [class7, quietRenewOf_some h, Option.some_or]
  · rw [class7, quietRenewOf_none h0, Option.none_or, quietRenewOf_some h1]
  · rw [class7, quietRenewOf_none h0, Option.none_or, quietRenewOf_none h1]
  · rw [patternEligible_iff, columnTiming_iff, columnsPassed_iff, busFree_iff, writesPassed_iff]
    constructor
    · rintro ⟨tap, ⟨columns, bus, writes, _⟩, quiet⟩
      exact ⟨tap, columns, writes rfl, bus, quiet⟩
    · rintro ⟨tap, columns, writes, bus, quiet⟩
      exact ⟨tap, ⟨columns, bus, fun _ => writes, fun h => nomatch h⟩, quiet⟩
  · rw [parkEligible_iff, drainSettled_iff, debtsSettled_iff]
    constructor
    · rintro ⟨⟨empty, closed, issued, bus⟩, debts, quiet⟩
      exact ⟨empty, issued, bus, closed, debts, quiet⟩
    · rintro ⟨empty, issued, bus, closed, debts, quiet⟩
      exact ⟨⟨empty, closed, issued, bus⟩, debts, quiet⟩

/-! ### The transitions of the banks and layers (R8, R11, R17, R19, R63) -/

/-- The latest of three times is the maximum of those that take part. -/
theorem laterOf_three (x y z : Option Nat) : laterOf x (laterOf y z) = (x.toList ++ y.toList ++ z.toList).max? := by
  cases x <;> cases y <;> cases z <;> simp [laterOf, List.max?, Nat.max_assoc]

/-- Settles O15: each expiry is its condition and one record. -/
theorem bankEvents : Obligations.BankEvents := by
  intro s released
  have a2c (b : Fin 32) : a2cDue s s.banks[b] = true ↔ s.banks[b].state = .opening
      ∧ ∀ t, s.banks[b].lastOpen = some t → t + s.param .a2c ≤ s.mclk := by
    rw [a2cDue, Bool.and_eq_true, decide_eq_true_eq, passed_iff]
  have sht (b : Fin 32) : shtDue s s.banks[b] = true ↔ s.banks[b].state = .shutting
      ∧ ∀ t, s.banks[b].lastShut = some t → t + s.param .sht ≤ s.mclk := by
    rw [shtDue, Bool.and_eq_true, decide_eq_true_eq, passed_iff]
  have auto (b : Fin 32) : autoShutDue s s.banks[b] = true ↔ s.banks[b].state = .openRow ∧ s.banks[b].autoShut = true
      ∧ ∀ t, earliestShut s s.banks[b] = some t → t ≤ s.mclk := by
    simp only [autoShutDue, Bool.and_eq_true, decide_eq_true_eq, passed_iff, Nat.add_zero, and_assoc]
  refine ⟨fun b opening reached => exec_eq released (if_pos ((a2c b).2 ⟨opening, reached⟩)),
    fun b shutting reached => exec_eq released (if_pos ((sht b).2 ⟨shutting, reached⟩)),
    fun b t isOpen pending earliest reached => ?_, fun b zero => exec_eq released (if_pos (decide_eq_true zero)),
    fun l zero => exec_eq released (if_pos zero), fun b t => ?_, fun b h => exec_eq released (if_neg ?_),
    fun b h => exec_eq released (if_neg ?_), fun b h => exec_eq released (if_neg ?_),
    fun b running => exec_eq released (if_neg (mt of_decide_eq_true running)), fun l running => exec_eq released (if_neg running)⟩
  · have due : autoShutDue s s.banks[b] = true := (auto b).2 ⟨isOpen, pending, fun u same => by
      rw [earliest] at same
      cases same
      exact reached⟩
    refine exec_eq released ((if_pos due).trans ?_)
    simp only [State.modBank, Bank.shutAt, earliest, Option.getD_some]
  · intro times
    rw [← List.max?_eq_some_iff, earliestShut, laterOf_three]
    rfl
  · rw [a2c]
    rintro ⟨opening, reached⟩
    exact h.elim (· opening) fun ⟨t, last, early⟩ => absurd (reached t last) (Nat.not_le.2 early)
  · rw [sht]
    rintro ⟨shutting, reached⟩
    exact h.elim (· shutting) fun ⟨t, last, early⟩ => absurd (reached t last) (Nat.not_le.2 early)
  · rw [auto]
    rintro ⟨isOpen, pending, reached⟩
    rcases h with h | h | ⟨t, last, early⟩
    · exact h isOpen
    · exact absurd (pending.symm.trans h) (by decide)
    · exact absurd (reached t last) (Nat.not_le.2 early)

end Sys2Proof.Machine
end

section
/-! SUPPORT. The search for the longest run of passing taps (R160). -/

namespace Sys2Proof.Machine

/-- The taps from `a` on, `n` of them, all pass. -/
def AllPass (passing : BitVec 32) (a n : Nat) : Prop := ∀ j, j < n → passing.getLsbD (a + j) = true

/-- A window is the first of the longest windows of passing taps below a tap. -/
structure Longest (passing : BitVec 32) (below start length : Nat) : Prop where
  passes : AllPass passing start length
  inside : start + length ≤ below
  longest : ∀ a n, AllPass passing a n → a + n ≤ below → n ≤ length ∧ (n = length → 0 < n → start ≤ a)
  empty : length = 0 → start = 0

/-- The run of passing taps that ends below a tap. -/
structure RunEnds (passing : BitVec 32) (below run : Nat) : Prop where
  inside : run ≤ below
  passes : AllPass passing (below - run) run
  maximal : ∀ a n, AllPass passing a n → a + n = below → n ≤ run

theorem RunEnds.next {passing : BitVec 32} {tap run : Nat} (h : RunEnds passing tap run)
    (pass : passing.getLsbD tap = true) : RunEnds passing (tap + 1) (run + 1) := by
  have inside := h.inside
  refine ⟨Nat.succ_le_succ inside, fun j below => ?_, fun a n all ends => ?_⟩
  · by_cases last : j = run
    · rw [show tap + 1 - (run + 1) + j = tap by omega]
      exact pass
    · rw [show tap + 1 - (run + 1) + j = tap - run + j by omega]
      exact h.passes j (by omega)
  · cases n with
    | zero => exact Nat.zero_le _
    | succ n =>
      have shorter := h.maximal a n (fun j below => all j (by omega)) (by omega)
      omega

theorem RunEnds.stop {passing : BitVec 32} {tap : Nat} (fail : passing.getLsbD tap = false) :
    RunEnds passing (tap + 1) 0 := by
  refine ⟨Nat.zero_le _, fun j below => absurd below (Nat.not_lt_zero j), fun a n all ends => ?_⟩
  cases n with
  | zero => exact Nat.le_refl _
  | succ n =>
    have pass := all n (Nat.lt_succ_self n)
    rw [show a + n = tap by omega, fail] at pass
    cases pass

/-- A run no longer than the longest window leaves it. -/
theorem Longest.keep {passing : BitVec 32} {tap run start length : Nat} (h : Longest passing tap start length)
    (ends : RunEnds passing (tap + 1) run) (short : run ≤ length) : Longest passing (tap + 1) start length := by
  have inside := h.inside
  refine ⟨h.passes, by omega, fun a n all within => ?_, h.empty⟩
  by_cases old : a + n ≤ tap
  · exact h.longest a n all old
  · have shorter := ends.maximal a n all (by omega)
    exact ⟨by omega, fun same pos => by omega⟩

/-- A run longer than the longest window takes its place. -/
theorem Longest.replace {passing : BitVec 32} {tap run start length : Nat} (h : Longest passing tap start length)
    (ends : RunEnds passing (tap + 1) run) (long : length < run) : Longest passing (tap + 1) (tap + 1 - run) run := by
  have inside := ends.inside
  refine ⟨ends.passes, by omega, fun a n all within => ?_, fun zero => by omega⟩
  by_cases old : a + n ≤ tap
  · have shorter := (h.longest a n all old).1
    exact ⟨by omega, fun same _ => by omega⟩
  · have shorter := ends.maximal a n all (by omega)
    exact ⟨shorter, fun same _ => by omega⟩

theorem runStep_spec {passing : BitVec 32} {tap : Nat} {acc : Nat × Nat × Nat} (ends : RunEnds passing tap acc.1)
    (best : Longest passing tap acc.2.1 acc.2.2) :
    RunEnds passing (tap + 1) (runStep passing acc tap).1
      ∧ Longest passing (tap + 1) (runStep passing acc tap).2.1 (runStep passing acc tap).2.2 := by
  unfold runStep
  split
  · rename_i pass
    have next := ends.next pass
    dsimp only
    split
    · rename_i long
      exact ⟨next, best.replace next long⟩
    · rename_i short
      exact ⟨next, best.keep next (Nat.not_lt.1 short)⟩
  · rename_i fail
    have stopped := RunEnds.stop (Bool.eq_false_iff.2 fail)
    exact ⟨stopped, best.keep stopped (Nat.zero_le _)⟩

theorem runSteps_spec (passing : BitVec 32) (below : Nat) :
    RunEnds passing below ((List.range below).foldl (runStep passing) (0, 0, 0)).1
      ∧ Longest passing below ((List.range below).foldl (runStep passing) (0, 0, 0)).2.1
        ((List.range below).foldl (runStep passing) (0, 0, 0)).2.2 := by
  induction below with
  | zero =>
    have none (a : Nat) : AllPass passing a 0 := fun j below => absurd below (Nat.not_lt_zero j)
    exact ⟨⟨Nat.le_refl _, none _, fun a n _ ends => by omega⟩,
      ⟨none _, Nat.le_refl _, fun a n _ within => ⟨by omega, fun _ _ => by omega⟩, fun _ => rfl⟩⟩
  | succ n ih =>
    rw [List.range_succ, List.foldl_append]
    exact runStep_spec ih.1 ih.2

/-- The search ends with the first of the longest windows. -/
theorem longestRun_spec (passing : BitVec 32) : Longest passing 32 (longestRun passing).1 (longestRun passing).2 :=
  (runSteps_spec passing 32).2

/-- No tap above 31 passes. -/
theorem AllPass.inside {passing : BitVec 32} {a n : Nat} (all : AllPass passing a n) (pos : 0 < n) : a + n ≤ 32 := by
  refine Decidable.byContradiction fun outside => ?_
  have last := all (n - 1) (by omega)
  rw [BitVec.getLsbD_of_ge passing _ (by omega)] at last
  cases last

theorem Lane.form_window (minWin : Nat) (l : Lane) :
    (l.form minWin).windowStart = (longestRun l.passing).1 ∧ (l.form minWin).windowLength = (longestRun l.passing).2
      ∧ (l.form minWin).passing = l.passing ∧ (l.form minWin).captureDelay = (l.form minWin).chosenTap := ⟨rfl, rfl, rfl, rfl⟩

theorem Lane.form_outcome (minWin : Nat) (l : Lane) :
    (l.form minWin).chosenTap = (if minWin ≤ (longestRun l.passing).2 then
        (longestRun l.passing).1 + ((longestRun l.passing).2 - 1) / 2 else l.chosenTap)
      ∧ (l.form minWin).result = if minWin ≤ (longestRun l.passing).2 then .ok else .fail := by
  simp only [Lane.form, and_self]

/-- Settles O20: the search keeps the first of the longest windows seen, and the run that ends at the present tap. -/
theorem laneRecord : Obligations.LaneRecord := by
  intro minWin x some t
  obtain ⟨passes, inside, longest, empty⟩ := longestRun_spec x.passing
  obtain ⟨start, length, passing, delay⟩ := Lane.form_window minWin x
  obtain ⟨tap, result⟩ := Lane.form_outcome minWin x
  rw [← start, ← length] at passes inside longest empty tap
  rw [← length] at result
  refine ⟨passing, Nat.le_trans (Nat.le_add_left _ _) inside, passes, fun a n all => ?_, fun zero => ?_, fun ok => ?_, fun short => ?_, delay⟩
  · by_cases pos : 0 < n
    · exact longest a n all (AllPass.inside all pos)
    · exact ⟨by omega, fun _ h => absurd h pos⟩
  · have none : t.windowLength = 0 := by
      refine Decidable.byContradiction fun some => ?_
      have pass := passes 0 (Nat.pos_of_ne_zero some)
      rw [zero] at pass
      simp at pass
    exact ⟨empty none, none⟩
  · exact ⟨result.trans (if_pos ok), tap.trans (if_pos ok)⟩
  · exact ⟨result.trans (if_neg (Nat.not_le.2 short)), tap.trans (if_neg (Nat.not_le.2 short))⟩

end Sys2Proof.Machine
end

section
/-! SUPPORT. The sweep, its end, the end of a drain and the end of UNPARKING (R85, R87, R158 to R164). -/

namespace Sys2Proof.Machine

/-! ### The lanes of a sweep -/

theorem calibrated_iff (s : State) (i : Fin 5) : calibrated s i = true ↔ i.val < 4 ∨ s.protectEn = true := by
  rw [calibrated, Bool.or_eq_true, decide_eq_true_eq]

theorem calibrated_four {s : State} (off : s.protectEn = false) : calibrated s 4 = false := by
  rw [calibrated, off]
  rfl

theorem beginSweep_lane (s : State) (i : Fin 5) :
    (beginSweep s).port.lanes[i] = (s.port.lanes[i]).begin (calibrated s i) :=
  getElem_ofFn_fin (fun i => (s.port.lanes[i]).begin (calibrated s i)) i

theorem compareLanes_lane (b : CapturedBeats) (tap : Nat) (s : State) (i : Fin 5) :
    (compareLanes b tap s).port.lanes[i] = (s.port.lanes[i]).compare (calibrated s i && laneMatches b i) tap :=
  getElem_ofFn_fin (fun i => (s.port.lanes[i]).compare (calibrated s i && laneMatches b i) tap) i

theorem requestTap_lane (tap : Fin 32) (s : State) (i : Fin 5) :
    (requestTap tap s).port.lanes[i] =
      if calibrated s i then { s.port.lanes[i] with captureDelay := tap.val } else s.port.lanes[i] :=
  getElem_ofFn_fin (fun i =>
    if calibrated s i then ({ s.port.lanes[i] with captureDelay := tap.val } : Lane) else s.port.lanes[i]) i

/-- A lane whose beats equal the pattern's has the tap among its passing taps. -/
theorem Lane.compare_eq (matched : Bool) (tap : Nat) (l : Lane) :
    l.compare matched tap = { l with passing := if matched = true then l.passing ||| oneBit 32 tap else l.passing } := by
  unfold Lane.compare
  split <;> rfl

theorem patternDataEnded_due {b : CapturedBeats} {s : State} {tap : Fin 32} {ends : Nat}
    (flight : s.port.sweep = .inFlight tap ends) (reached : ends ≤ s.mclk) :
    patternDataEnded b s = if h : tap.val < 31 then requestTap ⟨tap.val + 1, by omega⟩ (compareLanes b tap s)
      else finishSweep (compareLanes b tap s) := by
  simp only [patternDataEnded, flight]
  exact if_pos reached

/-! ### The settle time -/

theorem fitted_eq (s : State) (l : Fin 2) : s.fitted l = decide (l.val < s.layers) := rfl

theorem startRenewTimers_renew (s : State) (l : Fin 2) :
    (startRenewTimers s).renews[l] =
      if s.fitted l then { s.renews[l] with timer := some s.renewPeriod } else s.renews[l] :=
  getElem_ofFn_fin (fun l : Fin 2 =>
    if s.fitted l then ({ s.renews[l] with timer := some s.renewPeriod } : Renew) else s.renews[l]) l

theorem settleExpired_due {s : State} (starting : s.port.state = .starting) (zero : s.port.settle = some 0) :
    settleExpired s = startRenewTimers ((beginSweep (clearRecords (s.modStack fun m =>
      { m with latencies := some (s.param .rdl, s.param .wdl), mode := .ready }))).modMemPort fun m =>
        { m with state := .calibrating, settle := none }) :=
  if_pos (by rw [starting, zero]; rfl)

/-- Settles O18: the four steps of the settle expiry touch different items, and a step of the sweep touches the lanes alone. -/
theorem sweepSteps : Obligations.SweepSteps := by
  refine ⟨fun s released starting zero => ?_, fun beats s tap ends h released flight reached => ?_⟩
  · have lanes (i : Fin 5) : (settleExpired s).port.lanes[i] = (s.port.lanes[i]).begin (calibrated s i) := by
      rw [settleExpired_due starting zero]
      exact beginSweep_lane (clearRecords (s.modStack _)) i
    have renew (l : Fin 2) : (settleExpired s).renews[l] =
        if l.val < s.layers then { s.renews[l] with timer := some (s.param .ri * 16) } else s.renews[l] := by
      rw [settleExpired_due starting zero, startRenewTimers_renew]
      simp only [fitted_eq, decide_eq_true_eq]
      rfl
    refine ⟨settleExpired s, exec_eq released rfl, ?_, fun b => ?_, fun c => ?_, fun l => ?_, ?_, renew, ?_, ?_, ?_,
      fun i on => ?_, fun off => ?_, ?_, ?_⟩
    case refine_9 =>
      rw [lanes, (calibrated_iff s i).2 on]
      rfl
    case refine_10 =>
      rw [lanes, calibrated_four off]
      rfl
    all_goals rw [settleExpired_due starting zero]
    case refine_1 => rfl
    case refine_2 => exact Vector.getElem_replicate _
    case refine_3 => exact Vector.getElem_replicate _
    case refine_4 => exact Vector.getElem_replicate _
    all_goals rfl
  · have next : patternDataEnded beats s = requestTap ⟨tap.val + 1, by omega⟩ (compareLanes beats tap s) :=
      (patternDataEnded_due flight reached).trans (dif_pos h)
    have matches_ (i : Fin 5) := laneMatches_iff beats i
    refine ⟨_, exec_eq released next, rfl, fun i on => ?_, fun off => ?_, rfl⟩
    · have calibrates : calibrated s i = true := (calibrated_iff s i).2 on
      have same : calibrated (compareLanes beats tap s) i = calibrated s i := rfl
      rw [requestTap_lane, same, calibrates, if_pos rfl, compareLanes_lane, calibrates, Bool.true_and, Lane.compare_eq]
      simp only [matches_ i]
    · have same : calibrated (compareLanes beats tap s) 4 = calibrated s 4 := rfl
      rw [requestTap_lane, same, calibrated_four off, if_neg (by decide), compareLanes_lane, calibrated_four off, Bool.false_and,
        Lane.compare_eq, if_neg (by decide)]

/-! ### The end of a sweep -/

/-- The lanes as the end of a sweep leaves them. -/
def sweptLanes (b : CapturedBeats) (s : State) : Vector Lane 5 :=
  Vector.ofFn fun i => if calibrated s i then ((s.port.lanes[i]).compare (laneMatches b i) 31).form s.minWin else s.port.lanes[i]

theorem formRecords_swept (b : CapturedBeats) (s : State) :
    formRecords (compareLanes b 31 s) = { s with port := { s.port with sweep := .none, lanes := sweptLanes b s } } := by
  have lanes : (formRecords (compareLanes b 31 s)).port.lanes = sweptLanes b s := by
    refine vector_ext_fin fun i => ?_
    have formed : (formRecords (compareLanes b 31 s)).port.lanes[i] = if calibrated s i then
        ((compareLanes b 31 s).port.lanes[i]).form s.minWin else (compareLanes b 31 s).port.lanes[i] :=
      getElem_ofFn_fin (fun i => if calibrated s i then
        ((compareLanes b 31 s).port.lanes[i]).form s.minWin else (compareLanes b 31 s).port.lanes[i]) i
    rw [formed, sweptLanes, getElem_ofFn_fin, compareLanes_lane]
    split
    · rename_i on
      rw [on, Bool.true_and]
    · rename_i off
      rw [Bool.eq_false_iff.2 off, Bool.false_and]
      rfl
  have frame : formRecords (compareLanes b 31 s) =
      { s with port := { s.port with sweep := .none, lanes := (formRecords (compareLanes b 31 s)).port.lanes } } := rfl
  rw [frame, lanes]

theorem leaveService_flags (s : State) : (leaveService s).flags = s.flags := by
  simp only [leaveService, scrubAbandon, loseContents_flags, modArbiter_flags, modScrub_flags, dropRenewDebts]

theorem leaveService_scrub (s : State) :
    (leaveService s).scrub = Scrub.load { s.scrub with offered := none, record := .empty } := by
  simp only [leaveService, scrubAbandon, loseContents_scrub, modArbiter_scrub, modScrub_scrub, dropRenewDebts]

theorem flag_raise (s : State) (f : Flag) : (s.raise f).flag f = true := by
  have inRange : f.position < 26 := by cases f <;> simp only [Flag.position] <;> omega
  rw [State.flag, State.flagView, BitVec.getLsbD_or, raise_getLsbD f s inRange, decide_eq_true rfl, Bool.or_true, Bool.true_or]

theorem enterFault_port (s : State) : (enterFault s).port = { s.port with state := .fault } := by
  rw [enterFault, raise_port, modMemPort_port, leaveService_port]

theorem enterFault_renew (s : State) (l : Fin 2) :
    (enterFault s).renews[l] = { s.renews[l] with timer := none, debt := 0, urgent := false } := by
  rw [enterFault, raise_renews, modMemPort_renews, leaveService_renews]
  exact getElem_mapVector s.renews _ l

theorem enterFault_scrub (s : State) : (enterFault s).scrub = Scrub.load { s.scrub with offered := none, record := .empty } := by
  rw [enterFault, raise_scrub, modMemPort_scrub, leaveService_scrub]

theorem enterFault_flags (s : State) : (enterFault s).flags = (s.raise .portFault).flags := by
  rw [enterFault, raise_flags, modMemPort_flags, leaveService_flags]
  rfl

theorem enterFault_keeps (s : State) : (enterFault s).paq = s.paq ∧ (enterFault s).channels = s.channels := by
  have part := enterFault_portPart s
  unfold PortPart at part
  generalize enterFault s = t at part
  obtain ⟨_, _, _, _, _, _, _, _, _, _, _, _, _, rfl⟩ := part
  exact ⟨rfl, rfl⟩

theorem finishSweep_calibrating {s t : State} (state : s.port.state = .calibrating) (formed : formRecords s = t) :
    finishSweep s = if anyLaneFailed t then enterFault t
      else (t.modMemPort fun m => { m with state := .online }).raise .portOnline := by
  subst formed
  simp only [finishSweep, state]

theorem finishSweep_recalibrating {s t : State} (state : s.port.state = .recalibrating) (formed : formRecords s = t) :
    finishSweep s = if anyLaneFailed t then (t.modMemPort fun m => { m with state := .online }).raise .calFail
      else t.modMemPort fun m => { m with state := .online } := by
  subst formed
  simp only [finishSweep, state]

/-- Settles O19: the records are formed first, and the outcome reads them. -/
theorem sweepEnd : Obligations.SweepEnd := by
  intro beats s ends released flight reached compared lanes failed
  have swept : lanes = sweptLanes beats s := by
    refine vector_ext_fin fun i => ?_
    have left : lanes[i] = if (decide (i.val < 4) || s.protectEn) = true then (compared i).form s.minWin else s.port.lanes[i] :=
      getElem_ofFn_fin _ i
    have right : (sweptLanes beats s)[i] = _ := getElem_ofFn_fin _ i
    have same : compared i = (s.port.lanes[i]).compare (laneMatches beats i) 31 := by
      rw [Lane.compare_eq]
      simp only [compared, laneMatches_iff]
    rw [left, right, same]
    rfl
  have finish : operation (.patternReadDataEnd beats) s = finishSweep (compareLanes beats 31 s) :=
    (patternDataEnded_due flight reached).trans (dif_neg (by decide))
  have formed : formRecords (compareLanes beats 31 s) = { s with port := { s.port with sweep := .none, lanes := lanes } } :=
    swept ▸ formRecords_swept beats s
  have anyFailed : anyLaneFailed { s with port := { s.port with sweep := .none, lanes := lanes } } = true ↔ failed := by
    simp only [anyLaneFailed, List.any_eq_true, List.mem_finRange, true_and, Bool.and_eq_true, decide_eq_true_eq, calibrated_iff]
    rfl
  have state : (compareLanes beats 31 s).port.state = s.port.state := rfl
  refine ⟨fun calibrating ok => ?_, fun calibrating fails => ?_, fun recalibrating => ?_⟩
  · exact exec_eq released (finish.trans
      ((finishSweep_calibrating (state.trans calibrating) formed).trans (if_neg (mt anyFailed.1 ok))))
  · have fault := (finishSweep_calibrating (state.trans calibrating) formed).trans (if_pos (anyFailed.2 fails))
    obtain ⟨paq, channels⟩ := enterFault_keeps { s with port := { s.port with sweep := .none, lanes := lanes } }
    refine ⟨_, exec_eq released (finish.trans fault), enterFault_port _, flag_raise _ .portFault, enterFault_renew _, ?_, ?_, ?_,
      paq, channels, enterFault_flags _⟩
    all_goals rw [enterFault_scrub]
    all_goals rfl
  · exact exec_eq released (finish.trans (finishSweep_recalibrating (state.trans recalibrating) formed))

/-! ### What follows a drain -/

theorem endOfferedWindow_window (s : State) :
    (endOfferedWindow s).window = if s.window.offered.isSome then { s.window with status := .notOnline, offered := none }
      else s.window := by
  unfold endOfferedWindow
  split <;> rfl

theorem endOfferedWindow_flags (s : State) :
    (endOfferedWindow s).flags = if s.window.offered.isSome then (s.raise .windowDone).flags else s.flags := by
  unfold endOfferedWindow
  split <;> rfl

theorem endOfferedWindow_scrub (s : State) : (endOfferedWindow s).scrub = s.scrub := by
  unfold endOfferedWindow
  split <;> rfl

theorem endOfferedWindow_arbiter (s : State) : (endOfferedWindow s).arbiter = s.arbiter := by
  unfold endOfferedWindow
  split <;> rfl

theorem leaveService_window (s : State) : (leaveService s).window = s.window := by
  simp only [leaveService, scrubAbandon, loseContents_window, modArbiter_window, modScrub_window, dropRenewDebts]

theorem leaveService_arbiter (s : State) : (leaveService s).arbiter = { s.arbiter with scrubWait := 0 } := by
  simp only [leaveService, scrubAbandon, loseContents_arbiter, modArbiter_arbiter, modScrub_arbiter, dropRenewDebts]

theorem enterOffline_scrub (s : State) :
    (enterOffline s).scrub = Scrub.load { s.scrub with offered := none, record := .empty } := by
  rw [enterOffline, modMemPort_scrub, endOfferedWindow_scrub, leaveService_scrub]

theorem enterOffline_arbiter (s : State) : (enterOffline s).arbiter = { s.arbiter with scrubWait := 0 } := by
  rw [enterOffline, modMemPort_arbiter, endOfferedWindow_arbiter, leaveService_arbiter]

theorem enterOffline_window (s : State) :
    (enterOffline s).window = if s.window.offered.isSome then { s.window with status := .notOnline, offered := none }
      else s.window := by
  rw [enterOffline, modMemPort_window, endOfferedWindow_window, leaveService_window]

theorem enterOffline_flags (s : State) :
    (enterOffline s).flags = if s.window.offered.isSome then (s.raise .windowDone).flags else s.flags := by
  rw [enterOffline, modMemPort_flags, endOfferedWindow_flags, leaveService_window, raise_flags, leaveService_flags]
  rfl

theorem leaveService_banks (s : State) : (leaveService s).banks = s.banks := by
  simp only [leaveService, scrubAbandon, loseContents_banks, modArbiter_banks, modScrub_banks, dropRenewDebts]

theorem enterOffline_banks (s : State) : (enterOffline s).banks = s.banks := by
  have offered (u : State) : (endOfferedWindow u).banks = u.banks := by
    unfold endOfferedWindow
    split <;> rfl
  rw [enterOffline, modMemPort_banks, offered, leaveService_banks]

theorem recalSweepDue_iff (s : State) :
    (s.port.state = .recalibrating && s.port.sweep = .none && drainSettled s) = true ↔
      s.port.state = .recalibrating ∧ s.port.sweep = .none ∧ drainSettled s = true := by
  simp only [Bool.and_eq_true, decide_eq_true_eq, and_assoc]

theorem stopDue_iff (s : State) :
    (s.port.state = .online && s.port.stopPending && drainSettled s) = true ↔
      s.port.state = .online ∧ s.port.stopPending = true ∧ drainSettled s = true := by
  simp only [Bool.and_eq_true, decide_eq_true_eq, and_assoc]

theorem xptDue_iff (s : State) :
    (s.port.state = .unparking && s.port.xpt = some 0) = true ↔ s.port.state = .unparking ∧ s.port.xpt = some 0 := by
  simp only [Bool.and_eq_true, decide_eq_true_eq]

/-- The end of UNPARKING: debts 0 and the timers from the full period, in the fitted layers (R85). -/
theorem xptExpired_renew {s : State} (due : s.port.state = .unparking ∧ s.port.xpt = some 0) (l : Fin 2) :
    (xptExpired s).renews[l] = if l.val < s.layers then
      { s.renews[l] with debt := 0, urgent := false, timer := some (s.param .ri * 16) } else s.renews[l] := by
  rw [xptExpired, if_pos ((xptDue_iff s).2 due)]
  refine (startRenewTimers_renew _ l).trans ?_
  have cleared : (Vector.ofFn fun l : Fin 2 =>
      if s.fitted l then { s.renews[l] with debt := 0, urgent := false } else s.renews[l])[l]
        = if s.fitted l then { s.renews[l] with debt := 0, urgent := false } else s.renews[l] := getElem_ofFn_fin _ l
  show (if s.fitted l = true then _ else _) = _
  rw [cleared]
  simp only [fitted_eq, decide_eq_true_eq]
  split <;> rfl

/-- Settles O22: each of the three rows is its condition and one operation. -/
theorem drainAndUnparkEnds : Obligations.DrainAndUnparkEnds := by
  intro s released settled
  have drained : drainSettled s = true ↔ settled := by
    rw [drainSettled_iff]
    simp only [← fitted_iff]
    rfl
  have unsettled (h : s.paq ≠ [] ∨ (∃ b : Fin 32, s.fitted (layerOfBank b) = true ∧ s.banks[b].state ≠ .closed)
      ∨ s.issued ≠ [] ∨ ∃ t, s.dataBus.ends = some t ∧ s.mclk < t) : ¬ drainSettled s = true := by
    rw [drained]
    rintro ⟨empty, closed, issued, bus⟩
    rcases h with h | ⟨b, fitted, h⟩ | h | ⟨t, ends, early⟩
    · exact h empty
    · exact h (closed b fitted)
    · exact h issued
    · exact absurd (bus t ends) (Nat.not_le.2 early)
  refine ⟨fun recal none quiet => ?_, fun online stop quiet => ?_, fun unparking zero => ?_, fun h => ?_, fun h => ?_, fun h => ?_⟩
  · refine ⟨_, exec_eq released (if_pos ((recalSweepDue_iff s).2 ⟨recal, none, drained.2 quiet⟩)), rfl, recal, fun i on => ?_, rfl⟩
    rw [beginSweep_lane, (calibrated_iff s i).2 on]
    rfl
  · obtain ⟨_, channels, slots, cq⟩ := enterOffline_keeps s
    refine ⟨_, exec_eq released (if_pos ((stopDue_iff s).2 ⟨online, stop, drained.2 quiet⟩)), enterOffline_port s,
      enterOffline_renew s, ?_, ?_, ?_, ?_, fun offered => ⟨?_, ?_⟩, fun none => ?_, channels, slots, enterOffline_banks s, cq⟩
    · rw [enterOffline_scrub]
      rfl
    · rw [enterOffline_scrub]
      rfl
    · rw [enterOffline_arbiter]
    · rw [enterOffline_window]
      split <;> rfl
    · have raised := flag_raise s .windowDone
      rw [State.flag, State.flagView, enterOffline_flags, if_pos offered, BitVec.getLsbD_or, raise_getLsbD _ _ (by decide),
        decide_eq_true rfl, Bool.or_true, Bool.true_or]
    · rw [enterOffline_window, if_pos offered]
    · rw [enterOffline_flags, none]
      rfl
  · have due := (xptDue_iff s).2 ⟨unparking, zero⟩
    refine ⟨xptExpired s, exec_eq released rfl, ?_, ?_, xptExpired_renew ⟨unparking, zero⟩, ?_⟩
    · rw [xptExpired, if_pos due]
      rfl
    · rw [xptExpired, if_pos due]
      exact flag_raise _ .unparkDone
    · rw [xptExpired, if_pos due]
      rfl
  · refine exec_eq released (if_neg ?_)
    rw [recalSweepDue_iff]
    rintro ⟨recal, none, quiet⟩
    rcases h with h | h | h
    · exact h recal
    · exact h none
    · exact unsettled h quiet
  · refine exec_eq released (if_neg ?_)
    rw [stopDue_iff]
    rintro ⟨online, stop, quiet⟩
    rcases h with h | h | h
    · exact h online
    · exact absurd (stop.symm.trans h) (by decide)
    · exact unsettled h quiet
  · refine exec_eq released (if_neg ?_)
    rw [xptDue_iff]
    rintro ⟨unparking, zero⟩
    exact h.elim (· unparking) (· zero)

end Sys2Proof.Machine
end

section
/-! SUPPORT. The splitter's cuts (R113), and the classes of a word under any check code of R142 (R143). -/

namespace Sys2Proof.Machine

/-! ### The splitter -/

theorem halvesOnly_iff (d : Slot) : halvesOnly d = true ↔ d.op = .copy ∧ d.addr.toNat % 32 ≠ d.dest.toNat % 32 := by
  rw [halvesOnly, Bool.and_eq_true, decide_eq_true_eq, decide_eq_true_eq]

theorem splitterNext_none {ch : Channel} (empty : ch.unitsLeft = 0) (d : Slot) : splitterNext ch d = none := if_pos empty

theorem splitterNext_half {ch : Channel} {d : Slot} (left : ch.unitsLeft ≠ 0)
    (cut : halvesOnly d = true ∨ ch.nextAddress % 32 ≠ 0 ∨ ch.unitsLeft < 2) :
    splitterNext ch d = some (.half, ch.nextAddress) :=
  (if_neg left).trans (if_pos (by simpa [or_assoc] using cut))

theorem splitterNext_full {ch : Channel} {d : Slot} (left : 2 ≤ ch.unitsLeft) (whole : halvesOnly d = false)
    (even : ch.nextAddress % 32 = 0) : splitterNext ch d = some (.full, ch.nextAddress) :=
  (if_neg (by omega)).trans (if_neg (by simp [whole, even, Nat.not_lt.2 left]))

theorem accessAddress_halves {d : Slot} (halves : halvesOnly d = true) (q : Nat) :
    accessAddress d q = d.addr.toNat + 16 * q := if_pos halves

theorem accessAddress_even {d : Slot} (whole : halvesOnly d = false) (even : d.addr.toNat % 32 = 0) (q : Nat) :
    accessAddress d q = d.addr.toNat + 32 * q := by
  rw [accessAddress, whole, if_neg (by decide), if_pos (by simp [even])]

theorem accessAddress_first (d : Slot) : accessAddress d 0 = d.addr.toNat := by
  unfold accessAddress
  split
  · rfl
  · exact if_pos (by simp)

theorem accessAddress_odd {d : Slot} (whole : halvesOnly d = false) (odd : d.addr.toNat % 32 ≠ 0) (q : Nat) :
    accessAddress d (q + 1) = d.addr.toNat + 16 + 32 * q := by
  rw [accessAddress, whole, if_neg (by decide), if_neg (by simp [odd])]
  rfl

/-- Settles O28: each access starts where the one before it ends, by the remainder of the range's start. -/
theorem splitterCuts : Obligations.SplitterCuts := by
  intro ch d
  have halves := halvesOnly_iff d
  refine ⟨fun empty => splitterNext_none empty d, fun left apart => splitterNext_half left (.inl (halves.2 apart)),
    fun left _ odd => splitterNext_half left (.inr (.inl odd)),
    fun one => splitterNext_half (by omega) (.inr (.inr (by omega))),
    fun left whole even => splitterNext_full left (Bool.eq_false_iff.2 (whole ∘ halves.1)) even,
    fun aligned => ⟨accessAddress_first d, fun q => ?_⟩⟩
  cases cut : halvesOnly d with
  | true =>
    rw [accessAddress_halves cut, accessAddress_halves cut, if_pos (.inl (halves.1 cut))]
    omega
  | false =>
    have whole : ¬ (d.op = .copy ∧ d.addr.toNat % 32 ≠ d.dest.toNat % 32) := fun apart => by
      rw [halves.2 apart] at cut
      contradiction
    by_cases even : d.addr.toNat % 32 = 0
    · rw [accessAddress_even cut even, accessAddress_even cut even, if_neg (not_or.2 ⟨whole, by omega⟩)]
      omega
    · cases q with
      | zero => rw [accessAddress_odd cut even, accessAddress_first, if_pos (.inr even)]
      | succ q =>
        rw [accessAddress_odd cut even, accessAddress_odd cut even, if_neg (not_or.2 ⟨whole, by omega⟩)]
        omega

/-! ### The number of ones -/

theorem weight_eq_countP {n : Nat} (x : BitVec n) : weight x = (List.range n).countP fun i => x.getLsbD i :=
  List.countP_eq_length_filter.symm

/-- What satisfies exactly one of two tests: each counts, and what satisfies both counts twice. -/
theorem countP_xor (p q : Nat → Bool) (l : List Nat) :
    l.countP (fun i => p i ^^ q i) + 2 * l.countP (fun i => p i && q i) = l.countP p + l.countP q := by
  induction l with
  | nil => rfl
  | cons i l ih =>
    simp only [List.countP_cons]
    have here : (if (p i ^^ q i) = true then 1 else 0) + 2 * (if (p i && q i) = true then 1 else 0)
        = (if p i = true then 1 else 0) + if q i = true then 1 else 0 := by
      cases p i <;> cases q i <;> rfl
    omega

theorem weight_xor {n : Nat} (x y : BitVec n) : weight (x ^^^ y) + 2 * weight (x &&& y) = weight x + weight y := by
  simp only [weight_eq_countP, BitVec.getLsbD_xor, BitVec.getLsbD_and]
  exact countP_xor _ _ _

theorem weight_xor_le {n : Nat} (x y : BitVec n) : weight (x ^^^ y) ≤ weight x + weight y := by
  have := weight_xor x y
  omega

theorem weight_zero (n : Nat) : weight 0#n = 0 := by
  rw [weight_eq_countP, List.countP_eq_zero]
  intro i _
  rw [BitVec.getLsbD_zero]
  decide

theorem oneBit_place {n i j : Nat} (inRange : j < n) : (oneBit n i).getLsbD j = (j == i) := by
  rw [oneBit, BitVec.getLsbD_shiftLeft, BitVec.getLsbD_one, Bool.eq_iff_iff]
  simp only [Bool.and_eq_true, Bool.not_eq_true', decide_eq_true_eq, decide_eq_false_iff_not, beq_iff_eq]
  omega

theorem weight_oneBit {n i : Nat} (low : i < n) : weight (oneBit n i) = 1 := by
  have places : weight (oneBit n i) = (List.range n).count i := by
    rw [weight_eq_countP, List.count]
    exact List.countP_congr fun j inside => by rw [oneBit_place (List.mem_range.1 inside)]
  rw [places, List.count_range, if_pos low]

theorem oneBit_and_oneBit {n i j : Nat} (ne : i ≠ j) : oneBit n i &&& oneBit n j = 0#n := by
  refine BitVec.eq_of_getLsbD_eq fun k inRange => ?_
  rw [BitVec.getLsbD_and, oneBit_place inRange, oneBit_place inRange, BitVec.getLsbD_zero, Bool.eq_false_iff, ne_eq,
    Bool.and_eq_true, beq_iff_eq, beq_iff_eq]
  omega

theorem weight_twoBits {n i j : Nat} (lt : i < j) (low : j < n) : weight (oneBit n i ^^^ oneBit n j) = 2 := by
  have both := weight_xor (oneBit n i) (oneBit n j)
  rw [oneBit_and_oneBit (Nat.ne_of_lt lt), weight_zero, weight_oneBit (Nat.lt_trans lt low), weight_oneBit low] at both
  exact both

theorem xor_xor_left {n : Nat} (x y : BitVec n) : (x ^^^ y) ^^^ x = y := by
  rw [BitVec.xor_comm x, BitVec.xor_assoc, BitVec.xor_self, BitVec.xor_zero]

theorem xor_xor_right {n : Nat} (x y : BitVec n) : x ^^^ (x ^^^ y) = y := by
  rw [← BitVec.xor_assoc, BitVec.xor_self, BitVec.zero_xor]

/-! ### How far what was read lies from a word and its code -/

/-- The number of wrong bits in a word and check bits as read, if `e` was what was written. -/
def wrongBits (code : BitVec 64 → BitVec 8) (d : BitVec 64) (c : BitVec 8) (e : BitVec 64) : Nat :=
  weight (d ^^^ e) + weight (code e ^^^ c)

theorem four_le_wrongBits {code : BitVec 64 → BitVec 8} (h : SecDed code) (d : BitVec 64) (c : BitVec 8) {e f : BitVec 64}
    (ne : e ≠ f) : 4 ≤ wrongBits code d c e + wrongBits code d c f := by
  have data : e ^^^ f = (d ^^^ e) ^^^ (d ^^^ f) := by
    rw [BitVec.xor_comm d e, BitVec.xor_assoc, xor_xor_right]
  have check : code e ^^^ code f = (code e ^^^ c) ^^^ (code f ^^^ c) := by
    rw [BitVec.xor_comm (code f), BitVec.xor_assoc, xor_xor_right]
  have far := h e f ne
  have dataLe := weight_xor_le (d ^^^ e) (d ^^^ f)
  have checkLe := weight_xor_le (code e ^^^ c) (code f ^^^ c)
  rw [← data] at dataLe
  rw [← check] at checkLe
  unfold wrongBits
  omega

theorem wrongBits_self (code : BitVec 64 → BitVec 8) (d : BitVec 64) (c : BitVec 8) :
    wrongBits code d c d = weight (code d ^^^ c) := by
  rw [wrongBits, BitVec.xor_self, weight_zero, Nat.zero_add]

theorem wrongBits_match {code : BitVec 64 → BitVec 8} {d : BitVec 64} {c : BitVec 8} (agrees : code d = c) :
    wrongBits code d c d = 0 := by
  rw [wrongBits_self, agrees, BitVec.xor_self, weight_zero]

theorem wrongBits_repaired {code : BitVec 64 → BitVec 8} {d : BitVec 64} {c : BitVec 8} {i : Nat} (low : i < 64)
    (agrees : code (d ^^^ oneBit 64 i) = c) : wrongBits code d c (d ^^^ oneBit 64 i) = 1 := by
  rw [wrongBits, xor_xor_right, agrees, BitVec.xor_self, weight_oneBit low, weight_zero]

theorem wrongBits_data (code : BitVec 64 → BitVec 8) (d e : BitVec 64) : wrongBits code (d ^^^ e) (code d) d = weight e := by
  rw [wrongBits, xor_xor_left, BitVec.xor_self, weight_zero, Nat.add_zero]

theorem wrongBits_check (code : BitVec 64 → BitVec 8) (d : BitVec 64) (c : BitVec 8) :
    wrongBits code d (code d ^^^ c) d = weight c := by
  rw [wrongBits_self, xor_xor_right]

/-! ### The classes -/

theorem wrongDataBit_some {code : BitVec 64 → BitVec 8} {d : BitVec 64} {c : BitVec 8} {i : Nat}
    (h : wrongDataBit code d c = some i) : i < 64 ∧ code (d ^^^ oneBit 64 i) = c :=
  ⟨List.mem_range.1 (List.mem_of_find?_eq_some h), of_decide_eq_true (List.find?_some
    (p := fun i => decide (code (d ^^^ oneBit 64 i) = c)) h)⟩

theorem wrongDataBit_none {code : BitVec 64 → BitVec 8} {d : BitVec 64} {c : BitVec 8} (h : wrongDataBit code d c = none)
    {i : Nat} (low : i < 64) : code (d ^^^ oneBit 64 i) ≠ c := fun agrees =>
  List.find?_eq_none.1 h i (List.mem_range.2 low) (decide_eq_true agrees)

theorem classWord_clean {code : BitVec 64 → BitVec 8} {d : BitVec 64} {c : BitVec 8} (agrees : code d = c) :
    classWord code d c = (.clean, d) := if_pos agrees

theorem classWord_repaired {code : BitVec 64 → BitVec 8} {d : BitVec 64} {c : BitVec 8} {i : Nat} (differs : code d ≠ c)
    (found : wrongDataBit code d c = some i) : classWord code d c = (.corrected, d ^^^ oneBit 64 i) := by
  rw [classWord, if_neg differs, found]

theorem classWord_unfound {code : BitVec 64 → BitVec 8} {d : BitVec 64} {c : BitVec 8} (differs : code d ≠ c)
    (none : wrongDataBit code d c = none) :
    classWord code d c = if weight (code d ^^^ c) = 1 then (.corrected, d) else (.uncorrectable, d) := by
  rw [classWord, if_neg differs, none]

/-- One wrong bit: what was written is the only word within one wrong bit of what was read. -/
theorem eq_of_wrongBits_le {code : BitVec 64 → BitVec 8} (h : SecDed code) {d e f : BitVec 64} {c : BitVec 8}
    (near : wrongBits code d c e + wrongBits code d c f < 4) : e = f := by
  refine Decidable.byContradiction fun ne => ?_
  exact absurd (four_le_wrongBits h d c ne) (by omega)

theorem classWord_one {code : BitVec 64 → BitVec 8} (h : SecDed code) {d e : BitVec 64} {c : BitVec 8}
    (one : wrongBits code d c e = 1) (way : e = d ∨ ∃ i < 64, e = d ^^^ oneBit 64 i ∧ code e = c) :
    classWord code d c = (.corrected, e) := by
  have differs : code d ≠ c := fun agrees => by
    have same : d = e := eq_of_wrongBits_le h (by rw [wrongBits_match agrees, one]; decide)
    rw [← same, wrongBits_match agrees] at one
    contradiction
  cases found : wrongDataBit code d c with
  | some i =>
    obtain ⟨low, agrees⟩ := wrongDataBit_some found
    rw [classWord_repaired differs found]
    exact congrArg _ (eq_of_wrongBits_le h (by rw [wrongBits_repaired low agrees, one]; decide))
  | none =>
    obtain rfl | ⟨i, low, rfl, agrees⟩ := way
    · rw [classWord_unfound differs found, if_pos ((wrongBits_self code _ c).symm.trans one)]
    · exact absurd agrees (wrongDataBit_none found low)

theorem classWord_two {code : BitVec 64 → BitVec 8} (h : SecDed code) {d e : BitVec 64} {c : BitVec 8}
    (two : wrongBits code d c e = 2) : classWord code d c = (.uncorrectable, d) := by
  have far (f : BitVec 64) (near : wrongBits code d c f ≤ 1) : False := by
    have same : e = f := eq_of_wrongBits_le (d := d) (c := c) h (by omega)
    rw [← same, two] at near
    contradiction
  have differs : code d ≠ c := fun agrees => far d (by rw [wrongBits_match agrees]; decide)
  cases found : wrongDataBit code d c with
  | some i =>
    obtain ⟨low, agrees⟩ := wrongDataBit_some found
    exact (far _ (Nat.le_of_eq (wrongBits_repaired low agrees))).elim
  | none => rw [classWord_unfound differs found, if_neg fun one => far d (Nat.le_of_eq ((wrongBits_self code d c).trans one))]

/-- Settles O42: two different words differ with their codes in four places, so what was read lies within one wrong bit of at most
one of them, and of none when two bits are wrong. -/
theorem wordClassing : Obligations.WordClassing := by
  intro code d h
  refine ⟨classWord_clean rfl, fun i low => ?_, fun i low => ?_, fun i j lt low => ?_, fun i j lowI lowJ => ?_,
    fun i j lt low => ?_⟩
  · refine classWord_one h ((wrongBits_data code d _).trans (weight_oneBit low)) (.inr ⟨i, low, ?_, rfl⟩)
    rw [BitVec.xor_assoc, BitVec.xor_self, BitVec.xor_zero]
  · exact classWord_one h ((wrongBits_check code d _).trans (weight_oneBit low)) (.inl rfl)
  · refine classWord_two (e := d) h ?_
    rw [BitVec.xor_assoc, wrongBits_data, weight_twoBits lt low]
  · refine classWord_two (e := d) h ?_
    rw [wrongBits, xor_xor_left, xor_xor_right, weight_oneBit lowI, weight_oneBit lowJ]
  · refine classWord_two (e := d) h ?_
    rw [BitVec.xor_assoc, wrongBits_check, weight_twoBits lt low]

end Sys2Proof.Machine
end

section
/-! SUPPORT. The order of the admissions and the admission of reads (R28 to R37, R114, R117, R150). -/

namespace Sys2Proof.Machine

/-! ### What finds its buffer -/

theorem freeReturn_isSome_iff (ch : Channel) : (freeReturn ch).isSome = true ↔ ∃ i : Fin 8, ch.returns[i] = .free := by
  simp [freeReturn, firstFin, List.find?_isSome]

theorem windowReady_iff (s : State) : windowReady s = true ↔
    ∃ k z, s.window.offered = some (k, z) ∧ (k = .write → ∃ i : Fin 16, s.wdb[i] = none) := by
  unfold windowReady
  cases offered : s.window.offered with
  | none => simp
  | some o =>
    obtain ⟨k, z⟩ := o
    cases k with
    | read => simp
    | write => simp [writeRoom_iff]

theorem channelReady_iff (s : State) (c : Fin 5) : channelReady s c = true ↔
    ∃ o, s.channels[c].offered = some o ∧ (o.kind = .write → ∃ i : Fin 16, s.wdb[i] = none)
      ∧ (o.kind = .read → ∃ i : Fin 8, s.channels[c].returns[i] = .free) := by
  unfold channelReady
  cases offered : s.channels[c].offered with
  | none => simp
  | some o =>
    cases kind : o.kind with
    | read => simp only [kind, freeReturn_isSome_iff, Option.some.injEq, exists_eq_left', reduceCtorEq, false_implies, true_and, forall_const]
    | write => simp only [kind, writeRoom_iff, Option.some.injEq, exists_eq_left', reduceCtorEq, false_implies, and_true, forall_const]

theorem scrubReady_iff (s : State) : scrubReady s = true ↔
    ∃ o, s.scrub.offered = some o ∧ (o = .writeBack → ∃ i : Fin 16, s.wdb[i] = none) := by
  unfold scrubReady
  cases offered : s.scrub.offered with
  | none => simp
  | some o =>
    cases o with
    | read => simp
    | writeBack => simp [writeRoom_iff]

/-! ### The source that is served -/

theorem admissionOpen_iff (s : State) : admissionOpen s = true ↔
    s.port.state = .online ∧ s.port.stopPending = false ∧ s.transferReset = false := by
  rw [admissionOpen, Bool.and_eq_true, inService_iff, Bool.not_eq_true', and_assoc]

/-- Admission is open and the queue has a place. -/
def TakesAccess (s : State) : Prop :=
  s.port.state = .online ∧ s.port.stopPending = false ∧ s.transferReset = false ∧ s.paq.length < 24

theorem takesAccess_iff (s : State) : (admissionOpen s && decide (s.paq.length < paqPlaces)) = true ↔ TakesAccess s := by
  rw [Bool.and_eq_true, admissionOpen_iff, decide_eq_true_eq, and_assoc, and_assoc]
  rfl

theorem nextSource_closed {s : State} (shut : ¬ TakesAccess s) : nextSource s = none := by
  have test := Bool.eq_false_iff.2 (shut ∘ (takesAccess_iff s).1)
  rw [nextSource, test]
  rfl

theorem nextSource_open {s : State} (takes : TakesAccess s) : nextSource s =
    if windowReady s then some .win
    else if scrubReady s && s.arbiter.scrubWait = promotedAt then some .scrub
    else ((turnChannel s).map .ch).or (if scrubReady s then some .scrub else none) := by
  rw [nextSource, (takesAccess_iff s).2 takes, if_neg (by decide)]
  cases turnChannel s <;> rfl

/-- No window access is ready, and no promoted scrub access. -/
theorem nextSource_channels {s : State} (takes : TakesAccess s) (noWindow : windowReady s = false)
    (notPromoted : ¬ (scrubReady s = true ∧ s.arbiter.scrubWait = 64)) :
    nextSource s = ((turnChannel s).map .ch).or (if scrubReady s then some .scrub else none) := by
  rw [nextSource_open takes, noWindow, if_neg (by decide), if_neg]
  rw [Bool.and_eq_true, decide_eq_true_eq]
  exact notPromoted

theorem cyclicFrom_get : ∀ (c j : Fin 5), ((cyclicFrom c)[j.val]'j.isLt).val = (c.val + j.val) % 5 := by decide

theorem turnChannel_some {s : State} {c : Fin 5} {j : Nat} (low : j < 5) (place : c.val = (s.arbiter.turn.val + j) % 5)
    (ready : channelReady s c = true)
    (before : ∀ (d : Fin 5) (i : Nat), i < j → d.val = (s.arbiter.turn.val + i) % 5 → channelReady s d = false) :
    turnChannel s = some c := by
  refine List.find?_eq_some_iff_getElem.2 ⟨ready, j, low, Fin.ext ?_, fun i lt => ?_⟩
  · exact (cyclicFrom_get s.arbiter.turn ⟨j, low⟩).trans place.symm
  · exact (Bool.not_eq_true' _).mpr (before _ i lt (cyclicFrom_get s.arbiter.turn ⟨i, Nat.lt_trans lt low⟩))

theorem turnChannel_none {s : State} (unready : ∀ c, channelReady s c = false) : turnChannel s = none :=
  List.find?_eq_none.2 fun c _ => Bool.eq_false_iff.1 (unready c)

/-! ### The turn after an admission -/

theorem turnAfter_moves {s : State} {c : Fin 5} {a : Arbiter}
    (last : (if c = a.turn then a.remaining else s.channels[c].weight) - 1 = 0) :
    turnAfter s c a = { a with turn := c + 1, remaining := s.channels[c + 1].weight } := if_pos last

theorem turnAfter_stays {s : State} {c : Fin 5} {a : Arbiter}
    (more : (if c = a.turn then a.remaining else s.channels[c].weight) - 1 ≠ 0) :
    turnAfter s c a =
      { a with turn := c, remaining := (if c = a.turn then a.remaining else s.channels[c].weight) - 1 } := if_neg more

theorem turnAfter_scrubWait (s : State) (c : Fin 5) (a : Arbiter) : (turnAfter s c a).scrubWait = a.scrubWait := by
  by_cases last : (if c = a.turn then a.remaining else s.channels[c].weight) - 1 = 0
  · rw [turnAfter_moves last]
  · rw [turnAfter_stays last]

theorem admitNext_some {s : State} {src : Source} (next : nextSource s = some src) : admitNext s = admitFrom src s := by
  rw [admitNext, next]

theorem admitNext_none {s : State} (next : nextSource s = none) : admitNext s = s := by
  rw [admitNext, next]

/-- Settles O35: the window, a promoted scrub access, the channels from the turn on, then any scrub access. -/
theorem admissionOrder : Obligations.AdmissionOrder := by
  intro s released
  refine ⟨windowReady_iff s, channelReady_iff s, scrubReady_iff s, fun src next => exec_eq released (admitNext_some next),
    fun next => exec_eq released (admitNext_none next), nextSource_closed, fun takes ready => ?_,
    fun takes noWindow promoted => ?_, fun c j takes noWindow notPromoted low place ready before => ?_,
    fun takes noWindow notPromoted unready => ?_, fun c _ _ => ⟨turnAfter_scrubWait s c _, fun here more => ?_,
      fun here last => ?_, fun away more => ?_, fun away last => ?_⟩⟩
  · rw [nextSource_open takes, ready, if_pos rfl]
  · rw [nextSource_open takes, noWindow, if_neg (by decide), promoted.1, promoted.2]
    rfl
  · rw [nextSource_channels takes noWindow notPromoted, turnChannel_some low place ready before]
    rfl
  · rw [nextSource_channels takes noWindow notPromoted, turnChannel_none unready]
    rfl
  · rw [turnAfter_stays (by rw [if_pos here]; omega), if_pos here]
    exact ⟨rfl, rfl⟩
  · rw [turnAfter_moves (by rw [if_pos here, last])]
    exact ⟨rfl, rfl⟩
  · rw [turnAfter_stays (by rw [if_neg away]; omega), if_neg away]
    exact ⟨rfl, rfl⟩
  · rw [turnAfter_moves (by rw [if_neg away, last])]
    exact ⟨rfl, rfl⟩

/-! ### The admission of a read -/

theorem predecessorsOf_read (paq : List Entry) (a : Nat) : predecessorsOf paq .read a =
    (paq.filter fun e => burstOf e.address = burstOf a && e.kind = .write).map fun e => e.id := by
  simp [predecessorsOf]

theorem predecessorsOf_write (paq : List Entry) (a : Nat) : predecessorsOf paq .write a =
    (paq.filter fun e => burstOf e.address = burstOf a).map fun e => e.id := by
  simp [predecessorsOf]

theorem admitWindow_read {s : State} {z : Size} (offered : s.window.offered = some (.read, z)) : admitWindow s =
    enqueue .win { kind := .read, size := z, address := s.window.address.toNat, sequence := 0 } .window
      (s.modWindow fun w => { w with offered := none }) := by
  rw [admitWindow, offered]

theorem admitScrub_read {s : State} (offered : s.scrub.offered = some .read) : admitScrub s =
    enqueue .scrub { kind := .read, size := .full, address := s.scrub.pointer, sequence := 0 } .scrubRecord
      ((s.modArbiter fun a => { a with scrubWait := 0 }).modScrub fun u =>
        { u with offered := none, record := .reading s.scrub.pointer false }) := by
  rw [admitScrub, offered]

theorem admitRead_eq {s : State} {c : Fin 5} {i : Fin 8} (free : freeReturn s.channels[c] = some i) (o : Offer) :
    admitRead c o s = enqueue (.ch c) o (.returnSlot c i) (s.modChannel c fun ch =>
      { ch.advance o with returns := ch.returns.set i (.reserved o.sequence o.size (halfOf o.address)) }) := by
  rw [admitRead, free]

theorem admitChannel_read {s : State} {c : Fin 5} {k : Fin 64} {o : Offer} (offered : s.channels[c].offered = some o)
    (current : s.channels[c].current = some k) (kind : o.kind = .read) :
    admitChannel c s = offerNext c (admitRead c o s) := by
  rw [admitChannel, offered, current]
  simp only [kind]

/-- Settles O36: the admitted entry and what its source reserves. -/
theorem admissionOfReads : Obligations.AdmissionOfReads := by
  intro s
  refine ⟨fun z offered => ?_, fun offered => ?_, fun c k z a q i offered current free low => ?_⟩
  · have admitted : admitFrom .win s = admitWindow (countScrubWait s) := rfl
    rw [admitted, countScrubWait_eq]
    refine (admitWindow_read (by exact offered)).trans ?_
    rw [enqueue, predecessorsOf_read]
    rfl
  · have admitted : admitFrom .scrub s = admitScrub s := rfl
    rw [admitted, admitScrub_read offered, enqueue, predecessorsOf_read]
    rfl
  · have admitted : admitFrom (.ch c) s = admitChannel c ((countScrubWait s).modArbiter (turnAfter s c)) := rfl
    rw [admitted, turned_eq]
    refine (admitChannel_read (by exact offered) (by exact current) rfl).trans ?_
    refine (congrArg (offerNext c) (admitRead_eq (i := i) (by exact freeReturn_eq_some free low) _)).trans ?_
    rw [enqueue, predecessorsOf_read]
    cases z <;> rfl

end Sys2Proof.Machine
end

section
/-! SUPPORT. The admission of writes: the entry, the scrub's record of the burst, and the words each source moves
(R34 to R37, R115, R116, R119, R120, R150). -/

namespace Sys2Proof.Machine

/-! ### The scrub sees a write to its burst -/

theorem scrubSees_away {s : State} {b : Nat} (away : s.scrub.record.burst ≠ some b) : scrubSees b s = s := by
  cases record : s.scrub.record with
  | empty => simp only [scrubSees, record]
  | reading b' x =>
    rw [record] at away
    simp only [scrubSees, record]
    exact if_neg fun same => away (congrArg some same)
  | writing b' held =>
    rw [record] at away
    simp only [scrubSees, record]
    exact if_neg (by simpa using fun same => (away (congrArg some same)).elim)

theorem scrubSees_reading {s : State} {b : Nat} {x : Bool} (record : s.scrub.record = .reading b x) :
    scrubSees b s = s.modScrub fun u => { u with record := .reading b true } := by
  simp only [scrubSees, record]
  exact if_pos trivial

theorem scrubSees_notOffered {s : State} {b : Nat} {held : List Word} (record : s.scrub.record = .writing b held)
    (offered : s.scrub.offered = none) : scrubSees b s = s := by
  simp only [scrubSees, record, offered]
  exact if_neg (by simp)

theorem scrubSees_abandons {s : State} {b : Nat} {held : List Word} (record : s.scrub.record = .writing b held)
    (offered : s.scrub.offered = some .writeBack) :
    scrubSees b s =
      scrubStepEnd ((s.modScrub fun u => { u with offered := none }).modArbiter fun a => { a with scrubWait := 0 }) := by
  simp only [scrubSees, record, offered]
  exact if_pos (by simp)

theorem scrubSees_frame (b : Nat) (s : State) :
    scrubSees b s = { s with scrub := (scrubSees b s).scrub, arbiter := (scrubSees b s).arbiter } := by
  unfold scrubSees
  split
  · rfl
  · split <;> rfl
  · split <;> rfl

/-! ### The entry of a write -/

/-- The state with a write's words in WDB slot `i` and its entry at the tail. -/
def withWrite (src : Source) (o : Offer) (words : List Word) (i : Fin 16) (s : State) : State :=
  { s with
    wdb := s.wdb.set i (some words), nextEntry := s.nextEntry + 1
    paq := s.paq ++
      [{ id := s.nextEntry, source := src, kind := .write, size := o.size, address := o.address, buffer := .wdb i,
         sequence := o.sequence, bypass := 0, cap := s.bypassCap, overdue := false
         predecessors := (s.paq.filter fun e => burstOf e.address = burstOf o.address).map fun e => e.id }] }

theorem enqueue_withWrite {o : Offer} (kind : o.kind = .write) (src : Source) (words : List Word) (i : Fin 16) (s : State) :
    enqueue src o (.wdb i) { s with wdb := s.wdb.set i (some words) } = withWrite src o words i s := by
  rw [enqueue, kind, predecessorsOf_write]
  rfl

theorem enqueueWrite_scrub {s : State} {i : Fin 16} (free : freeWdb s = some i) {o : Offer} (kind : o.kind = .write)
    (words : List Word) : enqueueWrite .scrub o words s = withWrite .scrub o words i s := by
  rw [enqueueWrite_some free, if_pos rfl, enqueue_withWrite kind]
  rfl

theorem enqueueWrite_other {s : State} {i : Fin 16} {src : Source} (free : freeWdb s = some i) {o : Offer}
    (kind : o.kind = .write) (other : src ≠ .scrub) (words : List Word) :
    enqueueWrite src o words s = scrubSees (burstOf o.address) (withWrite src o words i s) := by
  rw [enqueueWrite_some free, if_neg other, enqueue_withWrite kind]

theorem freeWdb_eq_some {s : State} {i : Fin 16} (free : s.wdb[i] = none)
    (low : ∀ j : Fin 16, j < i → s.wdb[j].isSome = true) : freeWdb s = some i :=
  firstFin_eq_some (by rw [free]; rfl) fun j lt => by rw [Option.isNone_eq_false_iff]; exact low j lt

/-- The write's entry whatever the scrub's record: the admission changes the scrub and the arbiter at most besides. -/
theorem enqueueWrite_withWrite {s : State} {i : Fin 16} (free : freeWdb s = some i) (src : Source) {o : Offer}
    (kind : o.kind = .write) (words : List Word) :
    ∃ scrub arbiter, enqueueWrite src o words s =
      { withWrite src o words i s with scrub := scrub, arbiter := arbiter } := by
  by_cases own : src = .scrub
  · rw [own]
    exact ⟨s.scrub, s.arbiter, enqueueWrite_scrub free kind words⟩
  · exact ⟨_, _, (enqueueWrite_other free kind own words).trans (scrubSees_frame _ _)⟩

/-- Settles O37: the entry's fields, and the scrub's record by what it held of the burst. -/
theorem admissionOfWrites : Obligations.AdmissionOfWrites := by
  intro src o words i s kind empty low
  have free : freeWdb s = some i := freeWdb_eq_some empty low
  obtain ⟨scrub, arbiter, admitted⟩ := enqueueWrite_withWrite free src kind words
  refine ⟨_, rfl, ?_, ?_, ?_, fun unseen => ?_, fun x other reading => ?_,
    fun held other writing => ⟨fun quiet => ?_, fun offered => ?_⟩, ?_⟩
  · rw [admitted]
    rfl
  · rw [admitted]
    rfl
  · rw [admitted]
    rfl
  · by_cases own : src = .scrub
    · rw [own, enqueueWrite_scrub free kind]
      exact ⟨rfl, rfl⟩
    · have away : scrubSees (burstOf o.address) (withWrite src o words i s) = withWrite src o words i s :=
        scrubSees_away (unseen.resolve_left own)
      rw [enqueueWrite_other free kind own, away]
      exact ⟨rfl, rfl⟩
  · rw [enqueueWrite_other free kind other, scrubSees_reading (s := withWrite src o words i s) reading]
    exact ⟨rfl, rfl⟩
  · rw [enqueueWrite_other free kind other, scrubSees_notOffered (s := withWrite src o words i s) writing quiet]
    exact ⟨rfl, rfl⟩
  · rw [enqueueWrite_other free kind other, scrubSees_abandons (s := withWrite src o words i s) writing offered]
    exact ⟨rfl, rfl, rfl, rfl, rfl⟩
  · rw [admitted]
    rfl

/-! ### The words of each source -/

theorem windowWords_half (w : Window) : windowWords w .half =
    if w.address.toNat / 16 % 2 = 0 then [windowWord w 0, windowWord w 1, windowWord w 2, windowWord w 3]
    else [windowWord w 4, windowWord w 5, windowWord w 6, windowWord w 7] := by
  have halves : windowWords w .half =
    (((List.finRange 8).map (windowWord w)).drop (4 * (w.address.toNat / 16 % 2))).take 4 := rfl
  rw [halves]
  split
  case isTrue low =>
    rw [low]
    rfl
  case isFalse high =>
    rw [Nat.mod_two_ne_zero.1 high]
    rfl

theorem admitWindow_write {s : State} {z : Size} (offered : s.window.offered = some (.write, z)) : admitWindow s =
    enqueueWrite .win { kind := .write, size := z, address := s.window.address.toNat, sequence := 0 }
      (windowWords s.window z) (s.modWindow fun w => { w with offered := none }) := by
  rw [admitWindow, offered]

theorem admitScrub_write {s : State} {b : Nat} {held : List Word} (offered : s.scrub.offered = some .writeBack)
    (record : s.scrub.record = .writing b held) : admitScrub s =
    enqueueWrite .scrub { kind := .write, size := .full, address := b, sequence := 0 } held
      ((s.modArbiter fun a => { a with scrubWait := 0 }).modScrub fun u => { u with offered := none }) := by
  rw [admitScrub, offered, record]

section Channel

variable {s : State} {c : Fin 5} {k : Fin 64} {o : Offer}

theorem admitChannel_fill (offered : s.channels[c].offered = some o) (current : s.channels[c].current = some k)
    (kind : o.kind = .write) (op : s.slots[k].op = .fill) : admitChannel c s =
    offerNext c (enqueueWrite (.ch c) o (List.replicate (wordsOf o.size) s.slots[k].pattern)
      (s.modChannel c fun ch => ch.advance o)) := by
  rw [admitChannel, offered, current]
  simp only [kind, op]

theorem admitChannel_copy (offered : s.channels[c].offered = some o) (current : s.channels[c].current = some k)
    (kind : o.kind = .write) (op : s.slots[k].op = .copy) : admitChannel c s = offerNext c (admitCopyWrite c o s) := by
  rw [admitChannel, offered, current]
  simp only [kind, op]

theorem admitChannel_inbound (offered : s.channels[c].offered = some o) (current : s.channels[c].current = some k)
    (kind : o.kind = .write) (op : s.slots[k].op = .inbound) :
    admitChannel c s = offerNext c (admitInbound c o s.slots[k] s) := by
  rw [admitChannel, offered, current]
  simp only [kind, op]

theorem admitCopyWrite_eq {i : Fin 8} {q h : Nat} {z : Size} {words : List Word} (head : headReturn s.channels[c] = some i)
    (filled : s.channels[c].returns[i] = .filled q z h words) : admitCopyWrite c o s =
    enqueueWrite (.ch c) o words (s.modChannel c fun ch =>
      { ch with
        returns := ch.returns.set i .free, delivery := ch.delivery + 1, outstanding := ch.outstanding + 1
        offered := none }) := by
  rw [admitCopyWrite, head]
  simp only [filled]

end Channel

theorem channelFifo_eq {s : State} {c : Fin 5} {p : Fin 4} (bound : p.val = c.val) : channelFifo s c = s.ports[p].fifo := by
  rw [channelFifo, portOfChannel_eq bound]

/-! ### How many words an INBOUND access takes -/

theorem inboundTake_unmarked {stop : Bool} {n : Nat} {fifo : List (Word × Bool)}
    (unmarked : stop = false ∨ ∀ w ∈ fifo.take n, w.2 = false) (enough : n ≤ fifo.length) :
    inboundTake stop n fifo = some (n, false) := by
  have noMark : (if stop then (fifo.take n).findIdx? (fun w => w.2) else none) = none := by
    split
    · rename_i stops
      exact List.findIdx?_eq_none_iff.2 (unmarked.resolve_left (by rw [stops]; decide))
    · rfl
  rw [inboundTake, noMark]
  exact if_pos enough

theorem inboundTake_marked {n i : Nat} {fifo : List (Word × Bool)} (low : i < n) (inside : i < fifo.length)
    (marked : ∀ x, fifo[i]? = some x → x.2 = true) (before : ∀ j x, j < i → fifo[j]? = some x → x.2 = false) :
    inboundTake true n fifo = some (i + 1, true) := by
  have found : (fifo.take n).findIdx? (fun w => w.2) = some i := by
    refine List.findIdx?_eq_some_iff_getElem.2 ⟨by rw [List.length_take]; omega, ?_, fun j lt => ?_⟩
    · rw [List.getElem_take]
      exact marked _ (List.getElem?_eq_getElem inside)
    · rw [List.getElem_take, before j _ lt (List.getElem?_eq_getElem (Nat.lt_trans lt inside))]
      decide
  rw [inboundTake, if_pos rfl, found]

theorem padWords_low {words : List Word} (some : 1 ≤ words.length) (few : words.length ≤ 4) :
    padWords words = words ++ List.replicate (4 - words.length) 0#32 := by
  have pad : (4 - words.length % 4) % 4 = 4 - words.length := by omega
  rw [padWords, pad]

theorem padWords_high {words : List Word} (some : 5 ≤ words.length) (few : words.length ≤ 8) :
    padWords words = words ++ List.replicate (8 - words.length) 0#32 := by
  have pad : (4 - words.length % 4) % 4 = 8 - words.length := by omega
  rw [padWords, pad]

theorem fillAccess_low {words : List Word} (some : 1 ≤ words.length) (few : words.length ≤ 4) (o : Offer) :
    fillAccess o words = ({ o with size := .half }, words ++ List.replicate (4 - words.length) 0#32) := by
  have length : (padWords words).length = 4 := by
    rw [padWords_low some few, List.length_append, List.length_replicate]
    omega
  obtain ⟨kind, size, address, sequence⟩ := o
  unfold fillAccess
  simp only [length, decide_true, Bool.and_true, decide_eq_true_eq]
  cases size
  · rw [if_pos rfl, padWords_low some few]
  · rw [if_neg (by decide), padWords_low some few]

theorem fillAccess_high {words : List Word} (some : 5 ≤ words.length) (few : words.length ≤ 8) (o : Offer) :
    fillAccess o words = (o, words ++ List.replicate (8 - words.length) 0#32) := by
  have length : (padWords words).length ≠ 4 := by
    rw [padWords_high some few, List.length_append, List.length_replicate]
    omega
  unfold fillAccess
  simp only [length, decide_false, Bool.and_false]
  rw [if_neg (by decide), padWords_high some few]

/-- An access whose words fill it stays as it is. -/
theorem fillAccess_whole {o : Offer} {words : List Word} (whole : words.length = wordsOf o.size) :
    fillAccess o words = (o, words) := by
  obtain ⟨kind, size, address, sequence⟩ := o
  cases size
  · have eight : words.length = 8 := whole
    rw [fillAccess_high (by omega) (by omega), eight, List.replicate_zero, List.append_nil]
  · have four : words.length = 4 := whole
    rw [fillAccess_low (by omega) (by omega), four, List.replicate_zero, List.append_nil]

theorem fillAccess_marked {o : Offer} {words : List Word} {i : Nat} (length : words.length = i + 1)
    (low : i < wordsOf o.size) :
    fillAccess o words =
      ({ o with size := if i < 4 then .half else .full },
        words ++ List.replicate (if i < 4 then 3 - i else 7 - i) 0#32) := by
  obtain ⟨kind, size, address, sequence⟩ := o
  by_cases first : i < 4
  · rw [fillAccess_low (by omega) (by omega), if_pos first, if_pos first, length, Nat.add_sub_add_right 3 1 i]
  · cases size
    · have eight : i < 8 := low
      rw [fillAccess_high (by omega) (by omega), if_neg first, if_neg first, length, Nat.add_sub_add_right 7 1 i]
    · exact absurd low first

/-- Settles O38: the words of each source, and those an INBOUND access takes up to a mark or to its size. -/
theorem writeData : Obligations.WriteData := by
  intro s
  refine ⟨fun z offered => ?_, fun b held offered record => admitScrub_write offered record,
    fun c k o offered current kind => ⟨fun fill => ?_, fun i q h z words copy filled head low => ?_,
      fun p bound inbound unmarked enough => ?_, fun p i bound inbound stops low marked before => ?_, ?_⟩,
    fun n fifo i low inside => inboundTake_marked low inside,
    fun o words some few full => fillAccess_low some few o, fun o words some few full => fillAccess_high some few o⟩
  · have admitted : admitFrom .win s = admitWindow (countScrubWait s) := rfl
    rw [admitted, countScrubWait_eq]
    refine (admitWindow_write (by exact offered)).trans ?_
    cases z with
    | full => rfl
    | half =>
      rw [windowWords_half]
      rfl
  all_goals
    have admitted : admitFrom (.ch c) s = admitChannel c ((countScrubWait s).modArbiter (turnAfter s c)) := rfl
    rw [turned_eq] at admitted
  · exact admitted.trans (admitChannel_fill (by exact offered) (by exact current) kind (by exact fill))
  · rw [head] at filled
    refine admitted.trans ((admitChannel_copy (by exact offered) (by exact current) kind (by exact copy)).trans ?_)
    exact congrArg (offerNext c) (admitCopyWrite_eq (by exact headReturn_eq_some filled low) (by exact filled))
  · refine admitted.trans ((admitChannel_inbound (by exact offered) (by exact current) kind (by exact inbound)).trans ?_)
    have length : ((s.ports[p].fifo.take (wordsOf o.size)).map fun w => w.1).length = wordsOf o.size := by
      rw [List.length_map, List.length_take, Nat.min_eq_left enough]
    refine congrArg (offerNext c) ((admitInbound_eq (portOfChannel_eq bound) (n := wordsOf o.size) (ended := false) ?_).trans ?_)
    · rw [channelFifo_eq bound]
      exact inboundTake_unmarked unmarked enough
    · simp only [fillAccess_whole length]
      rfl
  · refine admitted.trans ((admitChannel_inbound (by exact offered) (by exact current) kind (by exact inbound)).trans ?_)
    obtain ⟨v, there⟩ := marked
    have inside : i < s.ports[p].fifo.length := (List.getElem?_eq_some_iff.1 there).1
    have length : ((s.ports[p].fifo.take (i + 1)).map fun w => w.1).length = i + 1 := by
      rw [List.length_map, List.length_take]
      omega
    refine congrArg (offerNext c) ((admitInbound_eq (portOfChannel_eq bound) (n := i + 1) (ended := true) ?_).trans ?_)
    · have stopping : s.slots[k].stopOnMark = true := stops
      rw [channelFifo_eq bound]
      simp only [stopping]
      refine inboundTake_marked low inside (fun x here => ?_) before
      rw [there] at here
      cases here
      rfl
    · simp only [fillAccess_marked length low]
      by_cases first : i < 4
      · simp only [if_pos first]
        rfl
      · simp only [if_neg first]
        rfl
  · cases size : o.size <;> simp only [Channel.advance, size, bytesOf, unitsOf]

end Sys2Proof.Machine
end

section
/-! SUPPORT. The start and the end of a run (R96, R99, R101 to R103, R112, R115, R118 to R126). -/

namespace Sys2Proof.Machine

/-! ### Two writes to one record -/

theorem set_self_fin {α : Type} {n : Nat} (v : Vector α n) (i : Fin n) (x : α) : (v.set i x)[i] = x := by
  rw [getElem_set_fin, if_pos rfl]

theorem modSlot_modSlot (s : State) (k : Fin 64) (f g : Slot → Slot) :
    (s.modSlot k f).modSlot k g = s.modSlot k fun d => g (f d) := by
  have first : (s.modSlot k f).slots[k] = f s.slots[k] := modSlot_self s k f
  rw [State.modSlot, first]
  simp only [State.modSlot, Vector.set_set]

/-! ### Writes to different tables -/

theorem modChannel_modSlot (s : State) (c : Fin 5) (k : Fin 64) (f : Channel → Channel) (g : Slot → Slot) :
    (s.modChannel c f).modSlot k g = (s.modSlot k g).modChannel c f := rfl

theorem modCq_modSlot (s : State) (k : Fin 64) (f : CompletionUnit → CompletionUnit) (g : Slot → Slot) :
    (s.modCq f).modSlot k g = (s.modSlot k g).modCq f := rfl

theorem modCq_modChannel (s : State) (c : Fin 5) (f : CompletionUnit → CompletionUnit) (g : Channel → Channel) :
    (s.modCq f).modChannel c g = (s.modChannel c g).modCq f := rfl

/-! ### The outcome of a run and its record (R121, R122, R166) -/

section Outcome

variable {s : State} {c : Fin 5} {k : Fin 64}

theorem cqHasPlace_iff (s : State) : s.cqHasPlace = true ↔ s.cq.queue.length < 32 := decide_eq_true_iff

theorem writeOutcome_silent (silent : s.slots[k].notify = false) (r : Result) (next : State → State) :
    writeOutcome c k r next s = next (putOutcome c k r s) := by
  rw [writeOutcome, silent, if_neg (by decide)]

theorem writeOutcome_posted (wanted : s.slots[k].notify = true) (place : s.cq.queue.length < 32) (r : Result)
    (next : State → State) : writeOutcome c k r next s = next (postRecord c k (putOutcome c k r s)) := by
  rw [writeOutcome, wanted, if_pos rfl, (cqHasPlace_iff s).2 place, if_pos rfl]

theorem writeOutcome_waits (wanted : s.slots[k].notify = true) (full : 32 ≤ s.cq.queue.length) (r : Result)
    (next : State → State) : writeOutcome c k r next s = awaitPosting c k (putOutcome c k r s) := by
  rw [writeOutcome, wanted, if_pos rfl, if_neg fun place => absurd ((cqHasPlace_iff s).1 place) (Nat.not_lt.2 full)]

/-- The record of a run, from the slot as it was before the outcome was written. -/
theorem recordOf_putOutcome (c : Fin 5) (k : Fin 64) (r : Result) (s : State) : recordOf (putOutcome c k r s) c k =
    { slot := k, channel := c, result := r, tag := s.slots[k].tag, doneUnits := s.channels[c].unitsReached } := by
  have slot : (putOutcome c k r s).slots[k] = _ :=
    modSlot_self s k fun d => { d with result := r, doneUnits := s.channels[c].unitsReached }
  rw [recordOf, slot]

theorem postRecord_putOutcome (c : Fin 5) (k : Fin 64) (r : Result) (s : State) : postRecord c k (putOutcome c k r s) =
    (putOutcome c k r s).modCq fun u => u.post
      { slot := k, channel := c, result := r, tag := s.slots[k].tag, doneUnits := s.channels[c].unitsReached } := by
  rw [postRecord, recordOf_putOutcome]

theorem CompletionUnit.post_eq (u : CompletionUnit) (r : PendingRecord) : u.post r =
    { u with
      queue := u.queue ++
        [{ sequence := u.nextSequence, slot := r.slot, channel := r.channel, result := r.result, tag := r.tag,
           doneUnits := r.doneUnits }]
      nextSequence := u.nextSequence + 1
      timer := if u.queue = [] ∧ u.holdoff ≠ 0 then some (u.holdoff * 64) else u.timer } := by
  have timer : (if u.queue = [] && u.holdoff ≠ 0 then u.load else u.timer) =
      if u.queue = [] ∧ u.holdoff ≠ 0 then some (u.holdoff * 64) else u.timer := by
    by_cases runs : u.queue = [] ∧ u.holdoff ≠ 0
    · rw [if_pos runs, if_pos (by simp [runs]), CompletionUnit.load, if_neg runs.2]
    · rw [if_neg runs, if_neg (by simpa using runs)]
  rw [CompletionUnit.post, timer]

end Outcome

/-! ### The start of a run -/

theorem beginRun_valid {s : State} {c : Fin 5} {k : Fin 64} (valid : validate s c s.slots[k] = none) :
    beginRun c k s = offerNext c (setUpRun c k s) := by
  rw [beginRun, valid]

theorem beginRun_failed {s : State} {c : Fin 5} {k : Fin 64} {r : Result} (failed : validate s c s.slots[k] = some r) :
    beginRun c k s = writeOutcome c k r (fun u => haltChannel c (closeRun c k u)) (setUpRun c k s) := by
  rw [beginRun, failed]

/-- The channel's run items as a run that starts at a slot has them (R112). -/
def Channel.started (k : Fin 64) (d : Slot) (ch : Channel) : Channel :=
  { ch with
    state := .run, current := some k, runMode := some .live, nextAddress := d.addr.toNat
    unitsLeft := d.units.toNat, nextSequence := 0, delivery := 0, stopPoint := none, unitsReached := 0
    outstanding := 0, pendingRecord := none, offered := none, endedByMark := false }

theorem putOutcome_setUpRun (c : Fin 5) (k : Fin 64) (r : Result) (s : State) : putOutcome c k r (setUpRun c k s) =
    (s.modSlot k fun d => { d with owner := .running, holder := some c, result := r, doneUnits := 0 }).modChannel c
      (Channel.started k s.slots[k]) := by
  have channel : (setUpRun c k s).channels[c] = Channel.started k s.slots[k] s.channels[c] := modChannel_self _ c _
  rw [putOutcome, channel]
  exact congrArg (fun u : State => u.modChannel c (Channel.started k s.slots[k])) (modSlot_modSlot s k
    (fun d => { d with owner := .running, holder := some c, result := .none, doneUnits := 0 })
    fun d => { d with result := r, doneUnits := 0 })

theorem setUpRun_self (c : Fin 5) (k : Fin 64) (s : State) : (setUpRun c k s).slots[k] =
    { s.slots[k] with owner := .running, holder := some c, result := .none, doneUnits := 0 } :=
  (setUpRun_slot s c k k).trans (if_pos rfl)

theorem setUpRun_recordOf (c : Fin 5) (k : Fin 64) (r : Result) (s : State) :
    recordOf (putOutcome c k r (setUpRun c k s)) c k =
      { slot := k, channel := c, result := r, tag := s.slots[k].tag, doneUnits := 0 } := by
  have channel : (setUpRun c k s).channels[c] = Channel.started k s.slots[k] s.channels[c] := modChannel_self _ c _
  rw [recordOf_putOutcome, setUpRun_self, channel]
  rfl

/-- The channel as a run that ended at once leaves it (R99, R124). -/
def Channel.haltedAt (k : Fin 64) (d : Slot) (ch : Channel) : Channel :=
  { ch.started k d with state := .halted, current := none, runMode := none }

/-- A descriptor that fails validation gives its slot back and halts its channel, whatever was posted in between. -/
theorem haltChannel_closeRun (c : Fin 5) (k : Fin 64) (r : Result) (s : State) (f : CompletionUnit → CompletionUnit) :
    haltChannel c (closeRun c k ((putOutcome c k r (setUpRun c k s)).modCq f)) =
      { s with
        slots := s.slots.set k { s.slots[k] with owner := .host, holder := none, result := r, doneUnits := 0 }
        channels := s.channels.set c (s.channels[c].haltedAt k s.slots[k])
        cq := f s.cq, flags := (s.raise (.channelHalted c)).flags } := by
  rw [putOutcome_setUpRun, closeRun, modCq_modSlot, modChannel_modSlot, modSlot_modSlot, modCq_modChannel,
    modChannel_modChannel, haltChannel, modCq_modChannel, modChannel_modChannel]
  rfl

/-- Settles O26: validation, then the outcome's three ways. -/
theorem startOfRun : Obligations.StartOfRun := by
  intro c k s
  have notify : (setUpRun c k s).slots[k].notify = s.slots[k].notify := by rw [setUpRun_self]
  have channel := set_self_fin s.channels c (s.channels[c].haltedAt k s.slots[k])
  have queue : (s.channels.set c (s.channels[c].haltedAt k s.slots[k]))[c].queue = s.channels[c].queue := by
    rw [channel]
    rfl
  refine ⟨fun valid => beginRun_valid valid, fun r failed place => ?_, fun r failed wanted full => ?_⟩
  · cases wanted : s.slots[k].notify with
    | false =>
      have run : beginRun c k s = haltChannel c (closeRun c k ((putOutcome c k r (setUpRun c k s)).modCq id)) := by
        rw [beginRun_failed failed, writeOutcome_silent (notify.trans wanted)]
        rfl
      rw [run, haltChannel_closeRun]
      exact ⟨_, rfl, rfl, congrArg Channel.state channel, congrArg Channel.current channel, congrArg Channel.offered channel,
        queue, rfl, fun _ => rfl, fun yes => Bool.noConfusion yes, by rw [channel]⟩
    | true =>
      have posted : s.cq.queue.length < 32 := place.resolve_left (by rw [wanted]; decide)
      have run := (beginRun_failed failed).trans
        (writeOutcome_posted (notify.trans wanted) posted r fun u => haltChannel c (closeRun c k u))
      rw [postRecord, setUpRun_recordOf, haltChannel_closeRun] at run
      rw [run]
      exact ⟨_, rfl, rfl, congrArg Channel.state channel, congrArg Channel.current channel, congrArg Channel.offered channel,
        queue, rfl, fun no => Bool.noConfusion no, fun _ => CompletionUnit.post_eq _ _, by rw [channel]⟩
  · have run := (beginRun_failed failed).trans
      (writeOutcome_waits (notify.trans wanted) full r fun u => haltChannel c (closeRun c k u))
    rw [awaitPosting, setUpRun_recordOf, putOutcome_setUpRun, modChannel_modChannel] at run
    rw [run]
    have channel := modChannel_self (s.modSlot k fun d =>
      { d with owner := .running, holder := some c, result := r, doneUnits := 0 }) c fun ch =>
        { ch.started k s.slots[k] with
          pendingRecord := some { slot := k, channel := c, result := r, tag := s.slots[k].tag, doneUnits := 0 }
          offered := none, state := .postWait }
    exact ⟨_, rfl, rfl, congrArg Channel.state channel, congrArg Channel.current channel, congrArg Channel.offered channel,
      congrArg Channel.pendingRecord channel, congrArg (fun x =>
        { s with slots := (s.modSlot k fun d =>
            { d with owner := .running, holder := some c, result := r, doneUnits := 0 }).slots
                 channels := s.channels.set c x : State }) channel.symm⟩

/-! ### The end of a run -/

section FinishRun

variable {s : State} {c : Fin 5} {k : Fin 64}

theorem isFailed_iff (r : Result) : isFailed r = true ↔
    r = .failedFormat ∨ r = .failedRange ∨ r = .failedOverlap ∨ r = .failedData := by
  cases r <;> simp [isFailed]

theorem finishRun_cancelling (cancelling : s.channels[c].state = .cancelling) :
    finishRun c k s = takeNext c (closeRun c k s) := if_pos cancelling

theorem finishRun_failed (going : s.channels[c].state ≠ .cancelling) (failed : isFailed s.slots[k].result = true) :
    finishRun c k s = haltChannel c (closeRun c k s) := (if_neg going).trans (if_pos failed)

theorem finishRun_follows (going : s.channels[c].state ≠ .cancelling) (passed : isFailed s.slots[k].result = false) :
    finishRun c k s = followLink c s.slots[k].link (closeRun c k s) :=
  (if_neg going).trans (if_neg (Bool.eq_false_iff.1 passed))

theorem closeRun_queue (c : Fin 5) (k : Fin 64) (s : State) :
    (closeRun c k s).channels[c].queue = s.channels[c].queue := (closeRun_channel s c c k).1

theorem endRun_current (current : s.channels[c].current = some k) (r : Result) :
    endRun c r s = writeOutcome c k r (finishRun c k) s := by
  rw [endRun, current]

end FinishRun

/-! ### The end conditions -/

theorem liveComplete_iff (ch : Channel) (op : Op) : liveComplete ch op = true ↔
    ch.unitsLeft = 0 ∧ (op ≠ .outbound → ch.outstanding = 0)
      ∧ (op = .outbound ∨ op = .copy → ch.delivery = ch.nextSequence) := by
  cases op <;> simp [liveComplete]

section SettleChannel

variable {s : State} {c : Fin 5} {k : Fin 64}

theorem settleChannel_ends {r : Result} (ends : endResult s c = some r) : settleChannel c s = endRun c r s := by
  rw [settleChannel, ends]

theorem settleChannel_goesOn (goesOn : endResult s c = none) : settleChannel c s = offerNext c s := by
  rw [settleChannel, goesOn]

theorem offerNext_keeps (keeps : s.channels[c].state ≠ .run ∨ s.channels[c].offered ≠ none) : offerNext c s = s := by
  refine if_neg fun chooses => ?_
  rw [Bool.and_eq_true, decide_eq_true_eq, Option.isNone_iff_eq_none] at chooses
  exact keeps.elim (fun away => away chooses.1) fun offers => offers chooses.2

theorem offerNext_chooses (run : s.channels[c].state = .run) (free : s.channels[c].offered = none) :
    offerNext c s = s.modChannel c fun ch => { ch with offered := nextOffer s c } :=
  if_pos (by rw [run, free]; rfl)

theorem endResult_live (current : s.channels[c].current = some k) (mode : s.channels[c].runMode = some .live)
    (run : s.channels[c].state = .run) : endResult s c =
    if liveComplete s.channels[c] s.slots[k].op then
      some (if s.channels[c].endedByMark then .endedByMark else .done) else none := by
  simp only [endResult, current, mode, run, decide_true, Bool.true_and]

theorem endResult_stopped (current : s.channels[c].current = some k) (mode : s.channels[c].runMode = some .stopped)
    (run : s.channels[c].state = .run) : endResult s c =
    if s.channels[c].outstanding = 0 && s.channels[c].stopPoint = some s.channels[c].delivery then some .failedData
    else none := by
  simp only [endResult, current, mode, run, decide_true, Bool.true_and]

theorem endResult_cancelled (current : s.channels[c].current = some k) (mode : s.channels[c].runMode = some .cancelled)
    (cancelling : s.channels[c].state = .cancelling) : endResult s c =
    if s.channels[c].pendingRecord.isNone && s.channels[c].outstanding = 0 then some .cancelled else none := by
  simp only [endResult, current, mode, cancelling, decide_true, Bool.true_and]

theorem settleChannel_complete (current : s.channels[c].current = some k) (mode : s.channels[c].runMode = some .live)
    (run : s.channels[c].state = .run) (complete : liveComplete s.channels[c] s.slots[k].op = true) :
    settleChannel c s = endRun c (if s.channels[c].endedByMark then .endedByMark else .done) s :=
  settleChannel_ends ((endResult_live current mode run).trans (if_pos complete))

theorem settleChannel_incomplete (current : s.channels[c].current = some k) (mode : s.channels[c].runMode = some .live)
    (run : s.channels[c].state = .run) (incomplete : liveComplete s.channels[c] s.slots[k].op = false) :
    settleChannel c s = offerNext c s :=
  settleChannel_goesOn ((endResult_live current mode run).trans (if_neg (Bool.eq_false_iff.1 incomplete)))

theorem settleChannel_stopEnds (current : s.channels[c].current = some k) (mode : s.channels[c].runMode = some .stopped)
    (run : s.channels[c].state = .run)
    (ends : s.channels[c].outstanding = 0 ∧ s.channels[c].stopPoint = some s.channels[c].delivery) :
    settleChannel c s = endRun c .failedData s :=
  settleChannel_ends ((endResult_stopped current mode run).trans (if_pos (by
    rw [Bool.and_eq_true, decide_eq_true_eq, decide_eq_true_eq]
    exact ends)))

theorem settleChannel_stopWaits (current : s.channels[c].current = some k) (mode : s.channels[c].runMode = some .stopped)
    (run : s.channels[c].state = .run)
    (waits : ¬ (s.channels[c].outstanding = 0 ∧ s.channels[c].stopPoint = some s.channels[c].delivery)) :
    settleChannel c s = offerNext c s :=
  settleChannel_goesOn ((endResult_stopped current mode run).trans (if_neg (by
    rw [Bool.and_eq_true, decide_eq_true_eq, decide_eq_true_eq]
    exact waits)))

theorem settleChannel_cancelEnds (current : s.channels[c].current = some k) (mode : s.channels[c].runMode = some .cancelled)
    (cancelling : s.channels[c].state = .cancelling) (settled : s.channels[c].outstanding = 0)
    (unposted : s.channels[c].pendingRecord = none) : settleChannel c s = endRun c .cancelled s :=
  settleChannel_ends ((endResult_cancelled current mode cancelling).trans (if_pos (by
    rw [unposted, settled]
    rfl)))

theorem settleChannel_cancelWaits (mode : s.channels[c].runMode = some .cancelled)
    (cancelling : s.channels[c].state = .cancelling)
    (waits : s.channels[c].outstanding ≠ 0 ∨ s.channels[c].pendingRecord ≠ none) : settleChannel c s = s := by
  have rests : offerNext c s = s := offerNext_keeps (.inl (by rw [cancelling]; decide))
  cases current : s.channels[c].current with
  | none => exact (settleChannel_goesOn (by simp only [endResult, current])).trans rests
  | some k =>
    refine (settleChannel_goesOn ((endResult_cancelled current mode cancelling).trans (if_neg ?_))).trans rests
    rw [Bool.and_eq_true, decide_eq_true_eq, Option.isNone_iff_eq_none]
    exact fun ends => waits.elim (fun out => out ends.2) fun pending => pending ends.1

end SettleChannel

/-- Settles O30: the ways on after the outcome, the outcome's record, and the end condition of each mode and flow. -/
theorem endOfRun : Obligations.EndOfRun := by
  refine ⟨fun c k s => ?_, fun c k r s current => ?_, fun c k s current => ?_⟩
  · have failed := isFailed_iff s.slots[k].result
    have closed : (closeRun c k s).channels[c].queue = s.channels[c].queue := closeRun_queue c k s
    refine ⟨fun t => ⟨takeNext_nil, fun j rest => takeNext_cons⟩, fun unlinked => ?_, fun going fails => ?_,
      fun l going passes linked => ⟨fun host => ?_, fun held => ?_⟩⟩
    · have next : finishRun c k s = takeNext c (closeRun c k s) := by
        by_cases cancelling : s.channels[c].state = .cancelling
        · exact finishRun_cancelling cancelling
        · obtain ⟨passes, noLink⟩ := unlinked.resolve_left cancelling
          rw [finishRun_follows cancelling (Bool.eq_false_iff.2 (passes ∘ failed.1)), noLink]
          rfl
      exact ⟨fun empty => next.trans (takeNext_nil (closed.trans empty)),
        fun j rest head => next.trans (takeNext_cons (closed.trans head))⟩
    · exact finishRun_failed going (failed.2 fails)
    all_goals
      rw [finishRun_follows going (Bool.eq_false_iff.2 (passes ∘ failed.1)), linked]
    · exact if_pos host
    · exact if_neg held
  · refine ⟨fun silent => (endRun_current current r).trans (writeOutcome_silent silent r _), fun wanted place => ?_,
      fun wanted full => ?_⟩
    · rw [endRun_current current, writeOutcome_posted wanted place, postRecord_putOutcome, State.modCq, CompletionUnit.post_eq]
      rfl
    · rw [endRun_current current, writeOutcome_waits wanted full, awaitPosting, recordOf_putOutcome]
      rfl
  · have complete := liveComplete_iff s.channels[c] s.slots[k].op
    exact ⟨fun run mode done => settleChannel_complete current mode run (complete.2 done),
      fun run mode open_ => settleChannel_incomplete current mode run (Bool.eq_false_iff.2 (open_ ∘ complete.1)),
      fun run mode settled stop => settleChannel_stopEnds current mode run ⟨settled, stop⟩,
      fun run mode waits => settleChannel_stopWaits current mode run waits,
      fun cancelling mode settled unposted => settleChannel_cancelEnds current mode cancelling settled unposted,
      fun cancelling mode waits => settleChannel_cancelWaits mode cancelling waits⟩

end Sys2Proof.Machine
end

section
/-! SUPPORT. The placement of a word (R118, R123, R136), and CANCEL (R105, R110, R125, R126). -/

namespace Sys2Proof.Machine

/-! ### The placement of a word -/

theorem nextPlacement_eq {s : State} {p : Fin 4} {k : Fin 64} {i : Fin 8} {z : Size} {h : Nat} {w : Word} {rest : List Word}
    (run : s.channels[channelOfPort p].state = .run) (room : s.ports[p].fifo.length < 32)
    (current : s.channels[channelOfPort p].current = some k) (op : s.slots[k].op = .outbound)
    (filled : s.channels[channelOfPort p].returns[i] = .filled s.channels[channelOfPort p].delivery z h (w :: rest))
    (low : ∀ j : Fin 8, j < i →
      isFilledWith s.channels[channelOfPort p].delivery s.channels[channelOfPort p].returns[j] = false) :
    nextPlacement s p = some (k, i, s.channels[channelOfPort p].delivery, z, h, w, rest) := by
  have head : headReturn s.channels[channelOfPort p] = some i := headReturn_eq_some filled low
  have may : (decide (s.channels[channelOfPort p].state = .run) && decide (s.ports[p].fifo.length < 32)) = true := by
    rw [Bool.and_eq_true, decide_eq_true_eq, decide_eq_true_eq]
    exact ⟨run, room⟩
  unfold nextPlacement
  simp only [may, if_true, current, head, op, filled]

/-- The channel after a placement, by whether the word was the last of its slot. -/
theorem afterPlacement_eq (i : Fin 8) (q : Nat) (z : Size) (h : Nat) (rest : List Word) (ch : Channel) :
    afterPlacement i q z h rest ch =
      { ch with
        returns := ch.returns.set i (if rest = [] then .free else .filled q z h rest)
        delivery := if rest = [] then ch.delivery + 1 else ch.delivery
        unitsReached := if rest.length % 4 = 0 then ch.unitsReached + 1 else ch.unitsReached } := by
  cases rest <;> rfl

theorem placementMark_eq {ch : Channel} {mode : RunMode} (running : ch.runMode = some mode) (d : Slot) (rest : List Word) :
    placementMark ch d rest = decide (d.markAtEnd = true ∧ mode = .live
      ∧ rest = [] ∧ ch.unitsLeft = 0 ∧ ch.delivery + 1 = ch.nextSequence) := by
  rw [Bool.eq_iff_iff, placementMark, running]
  simp only [Bool.and_eq_true, decide_eq_true_eq, Option.some.injEq, List.isEmpty_iff, and_assoc]

theorem placeWord_eq {s : State} {p : Fin 4} {k : Fin 64} {i : Fin 8} {q : Nat} {z : Size} {h : Nat} {w : Word}
    {rest : List Word} (next : nextPlacement s p = some (k, i, q, z, h, w, rest)) : placeWord p s =
    settleChannel (channelOfPort p) ((s.modPort p fun r =>
        { r with fifo := r.fifo ++ [(w, placementMark s.channels[channelOfPort p] s.slots[k] rest)] }).modChannel
      (channelOfPort p) (afterPlacement i q z h rest)) := by
  rw [placeWord, next]

theorem liveComplete_outbound (ch : Channel) :
    liveComplete ch .outbound = true ↔ ch.unitsLeft = 0 ∧ ch.delivery = ch.nextSequence := by
  simp [liveComplete]

/-- Settles O34: the channel settles after the placement, by the mode it runs in. -/
theorem wordPlacement : Obligations.WordPlacement := by
  intro p s k i z h w rest mode c ch released run running current op room filled low last placed
  have channel : placed.channels[c] =
      { ch with
        returns := ch.returns.set i (if rest = [] then .free else .filled ch.delivery z h rest)
        delivery := if rest = [] then ch.delivery + 1 else ch.delivery
        unitsReached := if rest.length % 4 = 0 then ch.unitsReached + 1 else ch.unitsReached } := set_self_fin _ c _
  have places : placeWord p s = settleChannel c placed := by
    have marked : placementMark s.channels[channelOfPort p] s.slots[k] rest = _ := placementMark_eq running s.slots[k] rest
    rw [placeWord_eq (nextPlacement_eq run room current op filled low), marked, State.modChannel, afterPlacement_eq]
    rfl
  have still : placed.channels[c].state = .run := by rw [channel]; exact run
  have mode_eq : placed.channels[c].runMode = some mode := by rw [channel]; exact running
  have slot : placed.channels[c].current = some k := by rw [channel]; exact current
  have complete : liveComplete placed.channels[c] placed.slots[k].op = true ↔
      ch.unitsLeft = 0 ∧ placed.channels[c].delivery = ch.nextSequence := by
    have outbound : placed.slots[k].op = .outbound := op
    rw [outbound, liveComplete_outbound, channel]
  refine ⟨fun live _ incomplete => ?_, fun live final => ?_, fun stopped waits => ?_, fun stopped settled stop => ?_⟩
  all_goals refine exec_eq released (places.trans ?_)
  · exact settleChannel_incomplete slot (mode_eq.trans (congrArg some live)) still
      (Bool.eq_false_iff.2 (incomplete ∘ complete.1))
  · obtain ⟨empty, noneLeft, atEnd⟩ := final
    have delivered : placed.channels[c].delivery = ch.nextSequence := by
      rw [channel, ← atEnd]
      exact if_pos empty
    rw [settleChannel_complete slot (mode_eq.trans (congrArg some live)) still (complete.2 ⟨noneLeft, delivered⟩), channel]
  · refine settleChannel_stopWaits slot (mode_eq.trans (congrArg some stopped)) still ?_
    rw [channel] at waits ⊢
    exact waits
  · refine settleChannel_stopEnds slot (mode_eq.trans (congrArg some stopped)) still ?_
    rw [channel] at stop ⊢
    exact ⟨settled, stop⟩

/-! ### CANCEL -/

/-- The slots as CANCEL leaves them: those of the queue are back with the host. -/
@[irreducible] def emptiedSlots (s : State) (ks : List (Fin 64)) : Vector Slot 64 :=
  Vector.ofFn fun k =>
    if k ∈ ks then { s.slots[k] with owner := .host, holder := none, result := .cancelled, doneUnits := 0 }
    else s.slots[k]

theorem cancelQueuedSlot_slot (s : State) (j k : Fin 64) : (cancelQueuedSlot s j).slots[k] =
    if j = k then { s.slots[j] with owner := .host, holder := none, result := .cancelled, doneUnits := 0 }
    else s.slots[k] := modSlot_slot s j k _

/-- Every slot of the list is back with the host, and nothing but slots changes. -/
theorem cancelQueuedSlots_eq (ks : List (Fin 64)) (s : State) :
    ks.foldl cancelQueuedSlot s = { s with slots := emptiedSlots s ks } := by
  induction ks generalizing s with
  | nil =>
    have same : emptiedSlots s [] = s.slots := vector_ext_fin fun k => by
      rw [emptiedSlots, getElem_ofFn_fin, if_neg List.not_mem_nil]
    rw [same]
    rfl
  | cons j ks ih =>
    have next : emptiedSlots (cancelQueuedSlot s j) ks = emptiedSlots s (j :: ks) := vector_ext_fin fun k => by
      rw [emptiedSlots, emptiedSlots, getElem_ofFn_fin, getElem_ofFn_fin, cancelQueuedSlot_slot]
      by_cases here : j = k
      · subst here
        rw [if_pos rfl, if_pos List.mem_cons_self]
        split <;> rfl
      · simp only [if_neg here, List.mem_cons, Ne.symm here, false_or]
    rw [List.foldl_cons, ih, next]
    rfl

theorem emptyQueue_eq (c : Fin 5) (s : State) : emptyQueue c s =
    { s with slots := emptiedSlots s s.channels[c].queue }.modChannel c fun ch => { ch with queue := [] } := by
  rw [emptyQueue, cancelQueuedSlots_eq]

theorem emptyQueue_then (c : Fin 5) (s : State) (f : Channel → Channel) : (emptyQueue c s).modChannel c f =
    { s with
      slots := emptiedSlots s s.channels[c].queue
      channels := s.channels.set c (f { s.channels[c] with queue := [] }) } := by
  rw [emptyQueue_eq, modChannel_modChannel]
  rfl

/-- A channel in RUN as CANCEL leaves it until its run ends (R125). -/
def Channel.cancelling (ch : Channel) : Channel :=
  { ch with
    queue := [], state := .cancelling, runMode := some .cancelled, offered := none, unitsLeft := 0, stopPoint := none
    returns := mapVector ch.returns freeIfFilled }

/-- A channel whose cancelled run has ended, nothing being left in its queue (R126). -/
def Channel.cancelEnded (ch : Channel) : Channel :=
  { ch.cancelling with state := .idle, current := none, runMode := none, pendingRecord := none }

/-- The state in which a run's CANCEL judges whether the run ends at once. -/
def cancelledRun (c : Fin 5) (s : State) : State :=
  { s with slots := emptiedSlots s s.channels[c].queue }.modChannel c Channel.cancelling

theorem cancelRun_emptyQueue (c : Fin 5) (s : State) :
    cancelRun c (emptyQueue c s) = settleChannel c (cancelledRun c s) := by
  rw [cancelRun, emptyQueue_eq, modChannel_modChannel]
  rfl

theorem cancelledRun_channel (c : Fin 5) (s : State) : (cancelledRun c s).channels[c] = s.channels[c].cancelling :=
  modChannel_self _ c _

theorem cancelledRun_slot {c : Fin 5} {s : State} {k : Fin 64} (apart : k ∉ s.channels[c].queue) :
    (cancelledRun c s).slots[k] = s.slots[k] := by
  have slot : (cancelledRun c s).slots[k] = (emptiedSlots s s.channels[c].queue)[k] := rfl
  rw [slot, emptiedSlots, getElem_ofFn_fin, if_neg apart]

/-- The end of a run gives its slot back with the outcome, whatever was posted in between. -/
theorem closeRun_putOutcome (c : Fin 5) (k : Fin 64) (r : Result) (s : State) (f : CompletionUnit → CompletionUnit) :
    closeRun c k ((putOutcome c k r s).modCq f) =
      ((s.modSlot k fun d =>
        { d with owner := .host, holder := none, result := r, doneUnits := s.channels[c].unitsReached }).modChannel c fun ch =>
          { ch with current := none, runMode := none, stopPoint := none, pendingRecord := none, offered := none }).modCq f := by
  rw [closeRun, putOutcome, modCq_modSlot, modSlot_modSlot, modCq_modChannel]

/-- A cancelled run ends with its channel in IDLE, the queue being empty. -/
theorem finishRun_toIdle {c : Fin 5} {k : Fin 64} {s : State} (cancelling : s.channels[c].state = .cancelling)
    (empty : s.channels[c].queue = []) (r : Result) (f : CompletionUnit → CompletionUnit) :
    finishRun c k ((putOutcome c k r s).modCq f) =
      { s with
        slots := s.slots.set k
          { s.slots[k] with owner := .host, holder := none, result := r, doneUnits := s.channels[c].unitsReached }
        channels := s.channels.set c
          { s.channels[c] with
            current := none, runMode := none, stopPoint := none, pendingRecord := none, offered := none, state := .idle }
        cq := f s.cq } := by
  have noneWaits : (closeRun c k ((putOutcome c k r s).modCq f)).channels[c].queue = [] :=
    (closeRun_queue c k _).trans empty
  have ending : ((putOutcome c k r s).modCq f).channels[c].state = .cancelling := cancelling
  rw [finishRun_cancelling ending, takeNext_nil noneWaits, closeRun_putOutcome, modCq_modChannel, modChannel_modChannel]
  rfl

theorem cancelledRun_set (c : Fin 5) (s : State) (x : Channel) :
    (cancelledRun c s).channels.set c x = s.channels.set c x := Vector.set_set ..

theorem finishRun_cancelledRun {c : Fin 5} {k : Fin 64} {s : State} (apart : k ∉ s.channels[c].queue)
    (f : CompletionUnit → CompletionUnit) : finishRun c k ((putOutcome c k .cancelled (cancelledRun c s)).modCq f) =
      { s with
        slots := (emptiedSlots s s.channels[c].queue).set k
          { s.slots[k] with
            owner := .host, holder := none, result := .cancelled, doneUnits := s.channels[c].unitsReached }
        channels := s.channels.set c s.channels[c].cancelEnded, cq := f s.cq } := by
  have channel := cancelledRun_channel c s
  rw [finishRun_toIdle (by rw [channel]; rfl) (by rw [channel]; rfl), cancelledRun_set, cancelledRun_slot apart, channel]
  rfl

theorem cancelChannel_halted {c : Fin 5} {s : State} (halted : s.channels[c].state = .halted) :
    cancelChannel c s = (emptyQueue c s).modChannel c fun ch => { ch with state := .idle } := by
  rw [cancelChannel, halted]

theorem cancelChannel_postWait {c : Fin 5} {s : State} (waiting : s.channels[c].state = .postWait) :
    cancelChannel c s = (emptyQueue c s).modChannel c fun ch => { ch with state := .cancelling } := by
  rw [cancelChannel, waiting]

theorem cancelChannel_run {c : Fin 5} {s : State} (run : s.channels[c].state = .run) :
    cancelChannel c s = settleChannel c (cancelledRun c s) := by
  rw [cancelChannel, run]
  exact cancelRun_emptyQueue c s

/-- Settles O25: the queue empties first, then the channel acts by its state. -/
theorem cancelCommand : Obligations.CancelCommand := by
  intro n c s named working emptied ch
  have runs : exec (.cancel n) s = .next (cancelChannel c s) := onChannel_named cancelChannel named working
  have slots : emptiedSlots s s.channels[c].queue = emptied := by rw [emptiedSlots]
  have emptiedState : emptyQueue c s = { s with slots := emptied, channels := s.channels.set c ch } := by
    rw [emptyQueue_eq, slots]
    rfl
  refine ⟨fun cancelling => ?_, fun quiet => ?_, fun halted => ?_, fun waiting => ?_, fun run out => ?_,
    fun k run settled current unposted owner holder apart place => ?_⟩
  all_goals rw [runs]
  · rw [cancelChannel, cancelling]
    rfl
  · obtain off | idle := quiet
    · rw [cancelChannel, off]
      exact congrArg _ emptiedState
    · rw [cancelChannel, idle]
      exact congrArg _ emptiedState
  · rw [cancelChannel_halted halted, emptyQueue_then, slots]
  · rw [cancelChannel_postWait waiting, emptyQueue_then, slots]
  · have channel := cancelledRun_channel c s
    have rests : settleChannel c (cancelledRun c s) = cancelledRun c s :=
      settleChannel_cancelWaits (by rw [channel]; rfl) (by rw [channel]; rfl) (.inl (by rw [channel]; exact out))
    refine ⟨cancelledRun c s, congrArg _ ((cancelChannel_run run).trans rests), slots, ?_⟩
    rw [channel]
    exact ⟨rfl, rfl, rfl, rfl, rfl, rfl, fun i => getElem_mapVector _ _ i, rfl⟩
  · have absent : k ∉ s.channels[c].queue := fun inside => apart k inside rfl
    have channel := cancelledRun_channel c s
    have slot := cancelledRun_slot absent
    have ended : s.channels[c].cancelEnded = (s.channels.set c s.channels[c].cancelEnded)[c] := (set_self_fin _ _ _).symm
    have ends : cancelChannel c s = writeOutcome c k .cancelled (finishRun c k) (cancelledRun c s) := by
      rw [cancelChannel_run run, settleChannel_cancelEnds (k := k) (by rw [channel]; exact current) (by rw [channel]; rfl)
        (by rw [channel]; rfl) (by rw [channel]; exact settled) (by rw [channel]; exact unposted),
        endRun_current (k := k) (by rw [channel]; exact current)]
    cases wanted : s.slots[k].notify with
    | false =>
      have silent := ends.trans ((writeOutcome_silent (by rw [slot]; exact wanted) _ _).trans
        (finishRun_cancelledRun absent id))
      refine ⟨_, congrArg _ silent, by rw [slots], ?_⟩
      rw [← ended]
      exact ⟨rfl, rfl, rfl, fun _ => rfl, fun yes => Bool.noConfusion yes, rfl⟩
    | true =>
      have room : s.cq.queue.length < 32 := place.resolve_left (by rw [wanted]; decide)
      have asked : (cancelledRun c s).slots[k].notify = true := by rw [slot]; exact wanted
      have posted := ends.trans (writeOutcome_posted asked room _ _)
      rw [postRecord_putOutcome, slot, channel, finishRun_cancelledRun absent] at posted
      refine ⟨_, congrArg _ posted, by rw [slots], ?_⟩
      rw [← ended]
      exact ⟨rfl, rfl, rfl, fun no => Bool.noConfusion no, fun _ => rfl, rfl⟩

end Sys2Proof.Machine
end

section
/-! SUPPORT. What a channel offers (R113 to R116, R118 to R120, R123). -/

namespace Sys2Proof.Machine

theorem isFilledWith_iff (q : Nat) (r : ReturnSlot) :
    isFilledWith q r = true ↔ ∃ z h words, r = .filled q z h words := by
  cases r with
  | free => simp [isFilledWith]
  | reserved => simp [isFilledWith]
  | filled p z h words =>
    rw [isFilledWith, decide_eq_true_eq]
    exact ⟨fun same => ⟨z, h, words, by rw [same]⟩, fun ⟨_, _, _, same⟩ => (ReturnSlot.filled.inj same).1⟩

theorem inboundTake_isSome_iff (stop : Bool) (n : Nat) (fifo : List (Word × Bool)) :
    (inboundTake stop n fifo).isSome = true ↔ n ≤ fifo.length ∨ (stop = true ∧ ∃ w ∈ fifo.take n, w.2 = true) := by
  unfold inboundTake
  split
  case h_1 i found =>
    have marked : stop = true ∧ ∃ w ∈ fifo.take n, w.2 = true := by
      cases stop with
      | false => cases found
      | true => exact ⟨rfl, List.any_eq_true.1 (List.findIdx?_isSome.symm.trans (congrArg Option.isSome found))⟩
    exact ⟨fun _ => .inr marked, fun _ => rfl⟩
  case h_2 unmarked =>
    have noMark : ¬ (stop = true ∧ ∃ w ∈ fifo.take n, w.2 = true) := by
      rintro ⟨rfl, w, inside, mark⟩
      rw [if_pos rfl, List.findIdx?_eq_none_iff] at unmarked
      rw [unmarked w inside] at mark
      contradiction
    rw [or_iff_left noMark]
    split
    · rename_i enough
      exact ⟨fun _ => enough, fun _ => rfl⟩
    · rename_i short
      exact ⟨fun no => Bool.noConfusion no, fun enough => absurd enough short⟩

/-! ### The parts of an offer -/

section Offer

variable {ch : Channel} {d : Slot}

theorem splitterOffer_some {z : Size} {a : Nat} (cut : splitterNext ch d = some (z, a)) (k : Kind) :
    splitterOffer ch d k = some { kind := k, size := z, address := a, sequence := ch.nextSequence } := by
  rw [splitterOffer, cut, Option.map_some]

theorem splitterOffer_none (done : splitterNext ch d = none) (k : Kind) : splitterOffer ch d k = none := by
  rw [splitterOffer, done, Option.map_none]

theorem readOffer_room (room : ∃ i : Fin 8, ch.returns[i] = .free) : readOffer ch d = splitterOffer ch d .read :=
  if_pos ((freeReturn_isSome_iff ch).2 room)

theorem readOffer_noRoom (full : ¬ ∃ i : Fin 8, ch.returns[i] = .free) : readOffer ch d = none :=
  if_neg (full ∘ (freeReturn_isSome_iff ch).1)

theorem copyWrite_head {i : Fin 8} {q h : Nat} {z : Size} {words : List Word} (head : headReturn ch = some i)
    (filled : ch.returns[i] = .filled q z h words) :
    copyWrite ch d = some { kind := .write, size := z, address := copyAddress d q, sequence := q } := by
  rw [copyWrite, head]
  simp only [filled]

theorem copyWrite_noHead (noHead : ∀ i : Fin 8, isFilledWith ch.delivery ch.returns[i] = false) : copyWrite ch d = none := by
  rw [copyWrite, headReturn_eq_none.2 noHead]

end Offer

/-! ### The offer of each mode and flow -/

section NextOffer

variable {s : State} {c : Fin 5} {k : Fin 64}

theorem nextOffer_inbound (current : s.channels[c].current = some k) (live : s.channels[c].runMode = some .live)
    (op : s.slots[k].op = .inbound) : nextOffer s c = (splitterOffer s.channels[c] s.slots[k] .write).filter fun o =>
      (inboundTake s.slots[k].stopOnMark (wordsOf o.size) (channelFifo s c)).isSome := by
  simp only [nextOffer, current, live, op]

theorem nextOffer_outbound (current : s.channels[c].current = some k) (live : s.channels[c].runMode = some .live)
    (op : s.slots[k].op = .outbound) : nextOffer s c = readOffer s.channels[c] s.slots[k] := by
  simp only [nextOffer, current, live, op]

theorem nextOffer_copy (current : s.channels[c].current = some k) (live : s.channels[c].runMode = some .live)
    (op : s.slots[k].op = .copy) :
    nextOffer s c = (copyWrite s.channels[c] s.slots[k]).or (readOffer s.channels[c] s.slots[k]) := by
  simp only [nextOffer, current, live, op]

theorem nextOffer_fill (current : s.channels[c].current = some k) (live : s.channels[c].runMode = some .live)
    (op : s.slots[k].op = .fill) : nextOffer s c = splitterOffer s.channels[c] s.slots[k] .write := by
  simp only [nextOffer, current, live, op]

theorem nextOffer_stopped (current : s.channels[c].current = some k) (stopped : s.channels[c].runMode = some .stopped) :
    nextOffer s c = if s.slots[k].op = .copy then copyWrite s.channels[c] s.slots[k] else none := by
  simp only [nextOffer, current, stopped]

theorem nextOffer_quiet (current : s.channels[c].current = some k)
    (quiet : s.channels[c].runMode = some .cancelled ∨ s.channels[c].runMode = none) : nextOffer s c = none := by
  obtain cancelled | none := quiet
  · simp only [nextOffer, current, cancelled]
  · simp only [nextOffer, current, none]

end NextOffer

/-- Settles O29: the offer by mode, flow and what stands in the FIFO or the return buffer. -/
theorem channelOffers : Obligations.ChannelOffers := by
  refine ⟨fun c s => ⟨offerNext_chooses, offerNext_keeps⟩, fun c k s current => ⟨isFilledWith_iff,
    fun live done notCopy => ?_, fun z a p live cut inbound bound => ?_, fun z a live cut outbound => ⟨fun room => ?_, fun full => ?_⟩,
    fun z a live cut fill => ?_, fun i z h words mode copy filled low => ?_,
    fun live copy noHead => ⟨fun noRead => ?_, fun z a room cut => ?_⟩, fun stopped noWrite => ?_, nextOffer_quiet current⟩⟩
  · cases op : s.slots[k].op with
    | inbound => rw [nextOffer_inbound current live op, splitterOffer_none done, Option.filter_none]
    | outbound =>
      rw [nextOffer_outbound current live op, readOffer, splitterOffer_none done, ite_self]
    | copy => exact absurd op notCopy
    | fill => rw [nextOffer_fill current live op, splitterOffer_none done]
  · rw [nextOffer_inbound current live inbound, splitterOffer_some cut, Option.filter_some, channelFifo_eq bound]
    have ready := inboundTake_isSome_iff s.slots[k].stopOnMark (wordsOf z) s.ports[p].fifo
    cases z with
    | full => exact ⟨fun yes => if_pos (ready.2 yes), fun no => if_neg (no ∘ ready.1)⟩
    | half => exact ⟨fun yes => if_pos (ready.2 yes), fun no => if_neg (no ∘ ready.1)⟩
  · rw [nextOffer_outbound current live outbound, readOffer_room room, splitterOffer_some cut]
  · rw [nextOffer_outbound current live outbound, readOffer_noRoom full]
  · rw [nextOffer_fill current live fill, splitterOffer_some cut]
  · have head : headReturn s.channels[c] = some i := headReturn_eq_some filled low
    obtain live | stopped := mode
    · rw [nextOffer_copy current live copy, copyWrite_head head filled, Option.some_or]
      rfl
    · rw [nextOffer_stopped current stopped, if_pos copy, copyWrite_head head filled]
      rfl
  · rw [nextOffer_copy current live copy, copyWrite_noHead noHead, Option.none_or]
    by_cases room : ∃ i : Fin 8, s.channels[c].returns[i] = .free
    · rw [readOffer_room room, splitterOffer_none (noRead.resolve_right (not_not_intro room))]
    · exact readOffer_noRoom room
  · rw [nextOffer_copy current live copy, copyWrite_noHead noHead, Option.none_or, readOffer_room room, splitterOffer_some cut]
  · rw [nextOffer_stopped current stopped]
    split
    · rename_i copy
      exact copyWrite_noHead (noWrite.resolve_left (not_not_intro copy))
    · rfl

end Sys2Proof.Machine
end

section
/-! SUPPORT. The command slot on settled banks, and the issue of each choice (R5, R8, R10, R12, R14, R17, R19 to R21, R46, R62 to R64). -/

namespace Sys2Proof.Machine

/-! ### The due transitions as the expiries bank by bank -/

theorem BankPart.pinHeld {s t : State} (h : BankPart s t) : t.pinHeld = s.pinHeld := by
  obtain ⟨_, _, rfl⟩ := h
  rfl

/-- A runner that gives each command's operation runs the four expiries of each bank as `settleBank` does. -/
theorem foldl_expiries {run : State → Instr → State} (runs : ∀ t i, t.pinHeld = false → run t i = operation i t)
    (bs : List (Fin 32)) {s : State} (released : s.pinHeld = false) :
    bs.foldl (fun t b => run (run (run (run t (.a2cExpiry b)) (.autoShut b)) (.shtExpiry b)) (.idleTimerExpiry b)) s =
      bs.foldl settleBank s := by
  induction bs generalizing s with
  | nil => rfl
  | cons b bs ih =>
    have opened := (a2cExpired_bankPart b s).pinHeld.trans released
    have shut := (autoShutTaken_bankPart b (a2cExpired b s)).pinHeld.trans opened
    have closed := (shtExpired_bankPart b (autoShutTaken b (a2cExpired b s))).pinHeld.trans shut
    have bank : run (run (run (run s (.a2cExpiry b)) (.autoShut b)) (.shtExpiry b)) (.idleTimerExpiry b) = settleBank s b := by
      rw [runs s _ released, operation, runs _ _ opened, operation, runs _ _ shut, operation, runs _ _ closed]
      rfl
    rw [List.foldl_cons, List.foldl_cons, bank, ih ((settleBank_bankPart s b).pinHeld.trans released)]

theorem settleBanks_expiries {run : State → Instr → State} (runs : ∀ t i, t.pinHeld = false → run t i = operation i t)
    {s : State} (released : s.pinHeld = false) :
    settleBanks s =
      run (run ((List.finRange 32).foldl (fun t b =>
          run (run (run (run t (.a2cExpiry b)) (.autoShut b)) (.shtExpiry b)) (.idleTimerExpiry b)) s)
        (.renewingTimerExpiry 0)) (.renewingTimerExpiry 1) := by
  have each := (settleEach_bankPart (List.finRange 32) s).pinHeld.trans released
  have first := (renewingExpired_bankPart 0 ((List.finRange 32).foldl settleBank s)).pinHeld.trans each
  rw [foldl_expiries runs _ released, runs _ _ each, operation, runs _ _ first]
  rfl

/-! ### What the due transitions give a bank -/

section SettledBank

variable {s : State} {r : Bank}

theorem a2cDue_iff (s : State) (r : Bank) : a2cDue s r = true ↔
    r.state = .opening ∧ ∀ u, r.lastOpen = some u → u + s.param .a2c ≤ s.mclk := by
  rw [a2cDue, Bool.and_eq_true, decide_eq_true_eq, passed_iff]

theorem shtDue_iff (s : State) (r : Bank) : shtDue s r = true ↔
    r.state = .shutting ∧ ∀ u, r.lastShut = some u → u + s.param .sht ≤ s.mclk := by
  rw [shtDue, Bool.and_eq_true, decide_eq_true_eq, passed_iff]

theorem autoShutDue_iff (s : State) (r : Bank) : autoShutDue s r = true ↔
    r.state = .openRow ∧ r.autoShut = true ∧ ∀ u, earliestShut s r = some u → u ≤ s.mclk := by
  rw [autoShutDue, Bool.and_eq_true, Bool.and_eq_true, decide_eq_true_eq, passed_iff, and_assoc]
  rfl

theorem a2cDue_false (away : r.state ≠ .opening) : a2cDue s r = false :=
  Bool.eq_false_iff.2 fun due => away ((a2cDue_iff s r).1 due).1

theorem shtDue_false (away : r.state ≠ .shutting) : shtDue s r = false :=
  Bool.eq_false_iff.2 fun due => away ((shtDue_iff s r).1 due).1

theorem autoShutDue_false (away : r.state = .openRow → r.autoShut = false) : autoShutDue s r = false :=
  Bool.eq_false_iff.2 fun due => by
    obtain ⟨isOpen, auto, _⟩ := (autoShutDue_iff s r).1 due
    rw [away isOpen] at auto
    contradiction

/-- The idle timer as its expiry leaves it. -/
theorem idleExpiry_eq (r : Bank) : (if idleDue r then { r with idle := .expired } else r) =
    { r with idle := if r.idle = .running 0 then .expired else r.idle } := by
  unfold idleDue
  by_cases due : r.idle = .running 0
  · rw [if_pos (decide_eq_true due), if_pos due]
  · rw [if_neg (by simpa using due), if_neg due]

theorem settledBank_still (noOpen : a2cDue s r = false) (noAuto : autoShutDue s r = false) (noClose : shtDue s r = false) :
    settledBank s r = { r with idle := if r.idle = .running 0 then .expired else r.idle } := by
  simp only [settledBank, noOpen, noAuto, noClose, Bool.false_eq_true, if_false]
  exact idleExpiry_eq r

theorem settledBank_closes (closes : shtDue s r = true) : settledBank s r =
    { r with state := .closed, idle := if r.idle = .running 0 then .expired else r.idle } := by
  have shutting : r.state = .shutting := ((shtDue_iff s r).1 closes).1
  have noOpen : a2cDue s r = false := a2cDue_false (by rw [shutting]; decide)
  have noAuto : autoShutDue s r = false := autoShutDue_false fun isOpen => by rw [shutting] at isOpen; contradiction
  simp only [settledBank, noOpen, noAuto, closes, Bool.false_eq_true, if_false, if_true]
  exact idleExpiry_eq { r with state := .closed }

theorem idleLoad_eq (s : State) : idleLoad s = if s.idleShut = 0 then .stopped else .running s.idleShut := rfl

theorem idleLoad_running (s : State) : idleLoad s ≠ .running 0 := by
  rw [idleLoad_eq]
  split
  · exact fun same => by contradiction
  · rename_i some
    exact fun same => some (IdleTimer.running.inj same)

theorem settledBank_opens (opens : a2cDue s r = true) (noAuto : r.autoShut = false) :
    settledBank s r = { r with state := .openRow, idle := idleLoad s } := by
  have noShut : autoShutDue s { r with state := .openRow, idle := idleLoad s } = false := autoShutDue_false fun _ => noAuto
  have noClose : shtDue s { r with state := .openRow, idle := idleLoad s } = false :=
    shtDue_false (r := { r with state := .openRow, idle := idleLoad s }) nofun
  simp only [settledBank, opens, noShut, noClose, Bool.false_eq_true, if_false, if_true]
  exact if_neg fun due => idleLoad_running s (of_decide_eq_true due)

theorem settledBank_autoShut {u : Nat} (isOpen : r.state = .openRow) (auto : r.autoShut = true)
    (earliest : earliestShut s r = some u) (reached : u ≤ s.mclk) : settledBank s r =
    { r with
      state := if u + s.param .sht ≤ s.mclk then .closed else .shutting
      row := none, lastShut := some u, autoShut := false, idle := .stopped } := by
  have noOpen : a2cDue s r = false := a2cDue_false (by rw [isOpen]; decide)
  have due : autoShutDue s r = true := (autoShutDue_iff s r).2
    ⟨isOpen, auto, fun v same => by rw [earliest] at same; exact Option.some.inj same ▸ reached⟩
  have closes : shtDue s (r.shutAt u) = decide (u + s.param .sht ≤ s.mclk) := rfl
  simp only [settledBank, noOpen, due, earliest, Option.getD_some, closes, Bool.false_eq_true, if_false, if_true,
    decide_eq_true_eq]
  split <;> exact if_neg (of_decide_eq_false rfl)

end SettledBank

/-! ### The issue of each choice -/

theorem carriesAutoShut_iff (s : State) (e : Entry) : carriesAutoShut s e = true ↔ s.rowPolicy = .shutAfterUse
    ∧ ¬ ∃ f ∈ s.paq, f.id ≠ e.id ∧ f.bank = e.bank ∧ f.row = e.row := by
  simp only [carriesAutoShut, Bool.and_eq_true, decide_eq_true_eq, Bool.not_eq_true', ← Bool.not_eq_true, List.any_eq_true,
    and_assoc]

theorem pushWindow_eq (times : List Nat) (t : Nat) :
    pushWindow times t = (if times.length < 4 then times else times.drop 1) ++ [t] := by
  unfold pushWindow
  split <;> rfl

theorem Renew.paid_eq (r : Renew) : r.paid =
    { r with
      debt := r.debt - 1, count := r.count + 1
      urgent := if r.debt - 1 = 2 then false else r.urgent } := by
  have urgent : (r.urgent && decide (r.debt ≠ 3)) = if r.debt - 1 = 2 then false else r.urgent := by
    by_cases three : r.debt = 3
    · simp [three]
    · rw [if_neg (by omega), decide_eq_true three, Bool.and_true]
  rw [Renew.paid, urgent]

theorem commandSlot_free {s : State} (free : s.slotTaken = false) : commandSlot s = runSlot (settleBanks s) :=
  if_neg (by rw [free]; decide)

theorem runSlot_some {s : State} {c : Choice} (chosen : choose s = some c) :
    runSlot s = { issue c s with commandBus := some (busCommand s c), slotTaken := true } := by
  rw [runSlot, chosen]

theorem runSlot_none {s : State} (idle : choose s = none) :
    runSlot s = { s with commandBus := none, slotTaken := true } := by
  rw [runSlot, idle]

theorem issuePattern_requested {s : State} {tap : Fin 32} (requested : s.port.sweep = .requested tap) :
    issuePattern s = (issueOnBus .read 0 (s.mclk + s.param .rdl + 4) s).modMemPort fun m =>
      { m with sweep := .inFlight tap (s.mclk + s.param .rdl + 4) } := by
  simp only [issuePattern, requested]
  rfl

/-- Settles O10: the slot's two ways, each bank's transitions in their order, and the issues one by one. -/
theorem commandSlotIssues : Obligations.CommandSlotIssues := by
  refine ⟨fun s released => ⟨fun taken => exec_eq released (commandSlot_taken taken),
      fun free => ⟨fun c chosen => exec_eq released ((commandSlot_free free).trans (runSlot_some chosen)),
        fun idle => exec_eq released ((commandSlot_free free).trans (runSlot_none idle))⟩⟩,
    fun s released => ?_, fun s => ⟨fun b => ?_, fun l => ?_, ?_⟩,
    fun s => ⟨fun b row => rfl, fun b => rfl, fun e => ⟨carriesAutoShut s e, rfl, carriesAutoShut_iff s e⟩, fun l => rfl, rfl, rfl⟩,
    fun b row s => ?_, fun b s => rfl, fun l s => ?_, fun tap s requested => ?_, fun s => ?_⟩
  · intro run
    exact settleBanks_expiries (run := run) (fun t i out => congrArg (fun o => match o with
      | Host.Outcome.next u => u
      | _ => t) (exec_released i out)) released
  · rw [settleBanks_bank]
    have opening := a2cDue_iff s s.banks[b]
    have closing := shtDue_iff s s.banks[b]
    refine ⟨fun opens noAuto => settledBank_opens (opening.2 opens) noAuto,
      fun u isOpen auto earliest reached => settledBank_autoShut isOpen auto earliest reached,
      fun closes => settledBank_closes (closing.2 closes), fun noOpen noClose waits => ?_⟩
    refine settledBank_still (Bool.eq_false_iff.2 (noOpen ∘ opening.1)) (Bool.eq_false_iff.2 fun due => ?_)
      (Bool.eq_false_iff.2 (noClose ∘ closing.1))
    obtain ⟨isOpen, auto, reached⟩ := (autoShutDue_iff s s.banks[b]).1 due
    obtain ⟨u, earliest, later⟩ := waits isOpen auto
    exact absurd (reached u earliest) (Nat.not_le.2 later)
  · rw [settleBanks_layer]
    split <;> rfl
  · obtain ⟨banks, layerRecords, same⟩ := settleBanks_bankPart s
    rw [same]
  · rw [← pushWindow_eq]
    rfl
  · have paid := Renew.paid_eq s.renews[l]
    rw [← paid]
    rfl
  · exact issuePattern_requested requested
  · exact ⟨_, rfl, rfl, rfl, fun l => getElem_mapVector _ _ l, flag_raise _ _, rfl⟩

/-! ### The issue of a column command -/

theorem afterIssue_eq (x : Nat) (g : Entry) : g.afterIssue x =
    { g with
      predecessors := g.predecessors.filter fun p => p ≠ x
      bypass := if g.id < x ∧ g.overdue = false then g.bypass + 1 else g.bypass
      overdue := g.overdue || decide (g.id < x ∧ g.overdue = false ∧ g.cap ≤ g.bypass + 1) } := by
  simp only [Entry.afterIssue, Bool.and_eq_true, decide_eq_true_eq, Bool.not_eq_true', Bool.decide_and,
    Bool.decide_eq_false, Bool.and_assoc]

theorem issueColumn_bank (e : Entry) (s : State) (b : Fin 32) : (issueColumn e s).banks[b] =
    if e.bank = b then
      Bank.afterColumn e.kind s.mclk (dataStart s e.kind + busTimeOf e.size) (carriesAutoShut s e) (idleLoad s) s.banks[e.bank]
    else s.banks[b] := modBank_bank s e.bank b _

/-- `t` differs from `s` at most in the records, the waiting entries and the issued list that a column command acts on. -/
def ColumnPart (s t : State) : Prop :=
  t = { s with
    dataBus := t.dataBus, clusters := t.clusters, layerRecords := t.layerRecords, banks := t.banks
    paq := t.paq, issued := t.issued }

theorem ColumnPart.modBank {s t : State} (h : ColumnPart s t) (b : Fin 32) (f : Bank → Bank) : ColumnPart s (t.modBank b f) := by
  rw [ColumnPart, State.modBank, h]

theorem issueOnBus_columnPart (k : Kind) (c : Fin 8) (ends : Nat) (s : State) : ColumnPart s (issueOnBus k c ends s) := rfl

theorem ColumnPart.queued {s t : State} (h : ColumnPart s t) (paq : List Entry) (issued : List Issued) :
    ColumnPart s { t with paq := paq, issued := issued } := by
  rw [ColumnPart, h]

theorem issueColumn_frame (e : Entry) (s : State) : ColumnPart s (issueColumn e s) :=
  ((issueOnBus_columnPart e.kind (clusterOfBank e.bank) _ s).modBank e.bank _).queued _ _

/-- Settles O11: the records by the fields of the issue, the waiting entries by what the issue leaves of each. -/
theorem issueColumn_records : Obligations.IssueColumn := by
  intro e s start ends auto
  have time : dataStart s e.kind + busTimeOf e.size = ends := rfl
  have bank := issueColumn_bank e s e.bank
  have layer : layerOfCluster (clusterOfBank e.bank) = layerOfBank e.bank := layerOfCluster_clusterOfBank e.bank
  rw [if_pos rfl, time] at bank
  have carries := carriesAutoShut_iff s e
  have issues : issue (.column e) s = issueColumn e s := rfl
  refine ⟨issueColumn e s, issues, ?_, rfl, ?_, fun b other => ?_, ?_⟩
  · have bus : (issueColumn e s).dataBus =
        { ends := some (dataStart s e.kind + busTimeOf e.size)
          last := some (layerOfCluster (clusterOfBank e.bank), e.kind) } := rfl
    rw [bus, time, layer]
  · have layers : (issueColumn e s).layerRecords = (s.modLayer (layerOfCluster (clusterOfBank e.bank)) fun r =>
        { r with lastColumn := some (s.mclk, e.kind) }).layerRecords := rfl
    rw [layers, layer]
    rfl
  · rw [issueColumn_bank, if_neg (Ne.symm other)]
  rw [bank]
  refine ⟨rfl, rfl, rfl, rfl, rfl, rfl, fun shuts => ?_, fun keeps => ?_, fun f => ?_, ?_, ?_, ?_⟩
  · rw [Bank.afterColumn, carries.2 shuts, Bool.or_true]
    exact ⟨rfl, rfl⟩
  · rw [Bank.afterColumn, Bool.eq_false_iff.2 (keeps ∘ carries.1), Bool.or_false]
    exact ⟨rfl, rfl⟩
  · rw [issueColumn_paq, List.mem_map]
    refine ⟨fun ⟨g, waits, same⟩ => ?_, fun ⟨g, waits, other, same⟩ => ⟨g, ?_, ?_⟩⟩
    · obtain ⟨inside, other⟩ := List.mem_filter.1 waits
      exact ⟨g, inside, of_decide_eq_true other, same.symm.trans (afterIssue_eq e.id g)⟩
    · exact List.mem_filter.2 ⟨waits, decide_eq_true other⟩
    · exact (afterIssue_eq e.id g).trans same.symm
  · rw [issueColumn_paq, List.map_map, List.filter_map]
    rfl
  · rw [issueColumn_issued, time]
  · exact issueColumn_frame e s

end Sys2Proof.Machine
end

section
/-! SUPPORT. The return of the head of the issued list, its class and its destinations (R66, R117, R123, R143 to R145, R151, R182). -/

namespace Sys2Proof.Machine

/-! ### The head of the issued list -/

theorem endedHead_eq {s : State} {k : Kind} {e : Issued} {rest : List Issued} (head : s.issued = e :: rest) (kind : e.kind = k)
    (ended : e.ends ≤ s.mclk) : endedHead s k = some (e, rest) := by
  rw [endedHead, head]
  exact if_pos (by rw [kind, decide_eq_true ended, decide_eq_true rfl]; rfl)

theorem takeReturn_head {s : State} {e : Issued} {rest : List Issued} (head : endedHead s .read = some (e, rest))
    (flips : List StackWord) : takeReturn flips s =
      endTransferReset (deliver e (classReturn s (returnedWords s e.address e.size flips)).1
        (classReturn s (returnedWords s e.address e.size flips)).2
        (recordClass (classReturn s (returnedWords s e.address e.size flips)).1 (burstOf e.address) e.source
          { s with issued := rest })) := by
  rw [takeReturn, head]

theorem endTransferReset_idle {s : State} (free : s.transferReset = false) : endTransferReset s = s :=
  if_neg (by rw [free]; simp)

theorem RunPart.transferReset {s t : State} (h : RunPart s t) : t.transferReset = s.transferReset := by
  obtain ⟨_, _, _, _, rfl⟩ := h
  rfl

theorem endWindow_eq (x : WindowStatus) (s : State) : endWindow x s =
    { s.raise .windowDone with window := { s.window with status := x, offered := none } } := rfl

theorem endWindow_modWindow (x : WindowStatus) (f : Window → Window) (s : State) : endWindow x (s.modWindow f) =
    { s.raise .windowDone with window := { f s.window with status := x, offered := none } } := rfl

theorem windowReturn_transferReset (e : Issued) (k : WordClass) (words : List Word) (s : State) :
    (windowReturn e k words s).transferReset = s.transferReset := by
  unfold windowReturn
  split
  · rw [endWindow_eq]
    rfl
  · rw [endWindow_modWindow]
    rfl

theorem scrubReturn_transferReset (k : WordClass) (words : List Word) (s : State) :
    (scrubReturn k words s).transferReset = s.transferReset := by
  unfold scrubReturn
  split
  · split <;> rfl
  · rfl

theorem deliver_transferReset (e : Issued) (k : WordClass) (words : List Word) (s : State) :
    (deliver e k words s).transferReset = s.transferReset := by
  unfold deliver
  split
  · exact (channelReturn_runPart _ _ e k words s).transferReset
  · exact windowReturn_transferReset e k words s
  · exact scrubReturn_transferReset k words s
  · rfl

/-! ### The class of a return -/

theorem worse_eq_uncorrectable (a b : WordClass) :
    worse a b = .uncorrectable ↔ a = .uncorrectable ∨ b = .uncorrectable := by
  cases a <;> cases b <;> decide

theorem worse_eq_clean (a b : WordClass) : worse a b = .clean ↔ a = .clean ∧ b = .clean := by
  cases a <;> cases b <;> decide

theorem flatMap_eq_of_mem {α β : Type} {l : List α} {f g : α → List β} (same : ∀ x ∈ l, f x = g x) :
    l.flatMap f = l.flatMap g := by
  rw [List.flatMap_def, List.flatMap_def, List.map_congr_left same]

section Worst

variable {α : Type}

/-- The worst class of a list of judged words, from a class on. -/
def worstFrom (k : WordClass) (js : List (WordClass × α)) : WordClass := js.foldl (fun k j => worse k j.1) k

theorem worstFrom_uncorrectable (js : List (WordClass × α)) (k : WordClass) :
    worstFrom k js = .uncorrectable ↔ k = .uncorrectable ∨ ∃ j ∈ js, j.1 = .uncorrectable := by
  induction js generalizing k with
  | nil => simp [worstFrom]
  | cons j js ih =>
    have step : worstFrom k (j :: js) = worstFrom (worse k j.1) js := rfl
    simp only [step, ih, worse_eq_uncorrectable, List.mem_cons, exists_eq_or_imp, or_assoc]

theorem worstFrom_clean (js : List (WordClass × α)) (k : WordClass) :
    worstFrom k js = .clean ↔ k = .clean ∧ ∀ j ∈ js, j.1 = .clean := by
  induction js generalizing k with
  | nil => simp [worstFrom]
  | cons j js ih =>
    have step : worstFrom k (j :: js) = worstFrom (worse k j.1) js := rfl
    rw [step, ih, worse_eq_clean, List.forall_mem_cons, and_assoc]

end Worst

theorem eq_corrected {k : WordClass} (clean : k ≠ .clean) (uncorrectable : k ≠ .uncorrectable) : k = .corrected := by
  cases k with
  | clean => exact absurd rfl clean
  | corrected => rfl
  | uncorrectable => exact absurd rfl uncorrectable

/-- A stored word as the part's check code judges it. -/
def judgeWord (w : StackWord) : WordClass × BitVec 64 := classWord Config.checkCode.code (dataOf w) (codeOf w)

theorem classReturn_unprotected {s : State} (off : s.protectEn = false) (words : List StackWord) :
    classReturn s words = (.clean, words.flatMap fun w => splitWord (dataOf w)) := by
  rw [classReturn, off]
  rfl

theorem classReturn_protected {s : State} (on : s.protectEn = true) (words : List StackWord) : classReturn s words =
    (worstFrom .clean (words.map judgeWord),
      if worstFrom .clean (words.map judgeWord) = .uncorrectable then words.flatMap fun w => splitWord (dataOf w)
      else words.flatMap fun w => splitWord (judgeWord w).2) := by
  have repaired : (words.map judgeWord).flatMap (fun j => splitWord j.2) =
      words.flatMap fun w => splitWord (judgeWord w).2 := List.flatMap_map ..
  rw [classReturn, if_pos on, ← repaired]
  rfl

theorem classWord_clean_data {code : BitVec 64 → BitVec 8} {d : BitVec 64} {c : BitVec 8}
    (clean : (classWord code d c).1 = .clean) : (classWord code d c).2 = d := by
  by_cases agrees : code d = c
  · rw [classWord_clean agrees]
  · cases found : wrongDataBit code d c with
    | some i =>
      rw [classWord_repaired agrees found] at clean
      contradiction
    | none =>
      rw [classWord_unfound agrees found]
      split <;> rfl

/-- Settles O39: the head leaves, its class is recorded, its data is delivered; the class is the worst of the words'. -/
theorem returnOfTheHead : Obligations.ReturnOfTheHead := by
  refine ⟨fun flips s e rest released head kind ended => ?_, fun s words => ⟨classReturn_unprotected (words := words),
    fun on some => ?_, fun on none some => ?_, fun on all => ?_⟩⟩
  · have taken := takeReturn_head (endedHead_eq head kind ended) flips
    refine ⟨exec_eq released taken, fun free => exec_eq released (taken.trans (endTransferReset_idle ?_)), fun off => ?_⟩
    · rw [deliver_transferReset, recordClass_transferReset]
      exact free
    · exact congrArg Prod.fst (classReturn_unprotected off _)
  all_goals rw [classReturn_protected on]
  · have worst : worstFrom .clean (words.map judgeWord) = .uncorrectable :=
      (worstFrom_uncorrectable _ _).2 (.inr (by
        obtain ⟨w, inside, bad⟩ := some
        exact ⟨_, List.mem_map_of_mem inside, bad⟩))
    rw [if_pos worst, worst]
    rfl
  · have notWorst : worstFrom .clean (words.map judgeWord) ≠ .uncorrectable := fun worst => by
      obtain ⟨j, inside, bad⟩ := ((worstFrom_uncorrectable _ _).1 worst).resolve_left (by decide)
      obtain ⟨w, waits, rfl⟩ := List.mem_map.1 inside
      exact none w waits bad
    have notClean : worstFrom .clean (words.map judgeWord) ≠ .clean := fun clean => by
      obtain ⟨w, inside, repaired⟩ := some
      have cleanWord := ((worstFrom_clean _ _).1 clean).2 _ (List.mem_map_of_mem inside)
      exact absurd (cleanWord.symm.trans repaired) (by decide)
    rw [if_neg notWorst, eq_corrected notClean notWorst]
    rfl
  · have clean : worstFrom .clean (words.map judgeWord) = .clean :=
      (worstFrom_clean _ _).2 ⟨rfl, List.forall_mem_map.2 all⟩
    have data : words.flatMap (fun w => splitWord (judgeWord w).2) = words.flatMap fun w => splitWord (dataOf w) :=
      flatMap_eq_of_mem fun w inside => congrArg splitWord (classWord_clean_data (all w inside))
    rw [clean, if_neg (by decide), data]
    rfl

/-! ### The window's buffer -/

theorem fillWindow_word {b : Vector Reg 16} {first : Nat} {words : List Word} {i : Fin 16} {w : Word}
    (from_ : first ≤ i.val / 2) (there : words[i.val / 2 - first]? = some w) :
    (fillWindow b first words)[i] = if i.val % 2 = 0 then w.setWidth 16 else (w >>> 16).setWidth 16 := by
  rw [fillWindow, getElem_ofFn_fin, if_pos from_]
  simp only [there]

theorem fillWindow_outside {b : Vector Reg 16} {first : Nat} {words : List Word} {i : Fin 16}
    (outside : i.val / 2 < first ∨ first + words.length ≤ i.val / 2) : (fillWindow b first words)[i] = b[i] := by
  rw [fillWindow, getElem_ofFn_fin]
  by_cases from_ : first ≤ i.val / 2
  · have past : words[i.val / 2 - first]? = none := List.getElem?_eq_none (by omega)
    rw [if_pos from_]
    simp only [past]
  · rw [if_neg from_]

/-- The first word of the window's buffer that a return of a size fills. -/
def windowFirst (e : Issued) : Nat := if e.size = .half then 4 * (e.address / 16 % 2) else 0

theorem windowReturn_reset {s : State} (active : s.transferReset = true) (e : Issued) (k : WordClass) (words : List Word) :
    windowReturn e k words s = endWindow .aborted s := if_pos active

theorem windowReturn_free {s : State} (free : s.transferReset = false) (e : Issued) (k : WordClass) (words : List Word) :
    windowReturn e k words s =
      { s.raise .windowDone with
        window :=
          { s.window with
            status := if k = .uncorrectable then .dataError else .done, offered := none
            buffer := fillWindow s.window.buffer (windowFirst e) words } } := by
  rw [windowReturn, if_neg (by rw [free]; decide), endWindow_modWindow, windowFirst]
  cases e.size <;> rfl

/-! ### The scrub record -/

theorem scrubReturn_reading {s : State} {b : Nat} {x : Bool} (record : s.scrub.record = .reading b x) (k : WordClass)
    (words : List Word) : scrubReturn k words s = if k = .corrected ∧ x = false ∧ s.scrub.enable = true then
      s.modScrub fun u => { u with record := .writing b words, offered := some .writeBack } else scrubStepEnd s := by
  simp only [scrubReturn, record, Bool.and_eq_true, decide_eq_true_eq, Bool.not_eq_true', and_assoc]

theorem scrubReturn_empty {s : State} (record : s.scrub.record = .empty) (k : WordClass) (words : List Word) :
    scrubReturn k words s = s := by
  simp only [scrubReturn, record]

/-! ### The channels -/

theorem keepsReturn_iff (ch : Channel) (q : Nat) : keepsReturn ch q = true ↔
    (ch.state = .run ∧ ch.runMode = some .live)
      ∨ ((ch.state = .run ∧ ch.runMode = some .stopped) ∧ ∃ p, ch.stopPoint = some p ∧ q < p) := by
  unfold keepsReturn
  split
  case h_1 run live => simp [run, live]
  case h_2 run stopped =>
    cases stop : ch.stopPoint with
    | none => simp [run, stopped]
    | some p => simp [run, stopped]
  case h_3 notLive notStopped =>
    refine ⟨fun no => Bool.noConfusion no, fun runs => ?_⟩
    rcases runs with ⟨run, live⟩ | ⟨⟨run, stopped⟩, _⟩
    · exact (notLive run live).elim
    · exact (notStopped run stopped).elim

theorem stopsRun_iff (ch : Channel) : stopsRun ch = true ↔
    (ch.state = .run ∧ ch.runMode = some .live) ∨ (ch.state = .run ∧ ch.runMode = some .stopped) := by
  rw [stopsRun, Bool.and_eq_true, Bool.or_eq_true, decide_eq_true_eq, decide_eq_true_eq, decide_eq_true_eq, and_or_left]

/-- The channel after a stop at `p`. -/
def Channel.stoppedAt (ch : Channel) (p : Nat) : Channel :=
  { ch with
    runMode := some .stopped, stopPoint := some p, returns := mapVector ch.returns (freeIfFrom p)
    offered := ch.offered.filter fun o => o.kind = .write }

theorem stopAt_first {ch : Channel} (none : ch.stopPoint = none) (q : Nat) : ch.stopAt q = ch.stoppedAt q := by
  simp only [Channel.stopAt, none]
  rfl

theorem stopAt_again {ch : Channel} {p : Nat} (stop : ch.stopPoint = some p) (q : Nat) :
    ch.stopAt q = ch.stoppedAt (min p q) := by
  simp only [Channel.stopAt, stop]
  rfl

section ChannelReturn

variable {s : State} {c : Fin 5} {e : Issued} {k : WordClass}

theorem channelReturn_kept (good : k ≠ .uncorrectable) (keeps : keepsReturn s.channels[c] e.sequence = true) (i : Fin 8)
    (words : List Word) : channelReturn c i e k words s = settleChannel c (s.modChannel c fun ch =>
      { ch with
        outstanding := ch.outstanding - 1
        returns := ch.returns.set i (.filled e.sequence e.size (halfOf e.address) words) }) := by
  simp only [channelReturn, if_neg good, keeps, if_true]
  rfl

theorem channelReturn_discarded (good : k ≠ .uncorrectable) (discards : keepsReturn s.channels[c] e.sequence = false)
    (i : Fin 8) (words : List Word) : channelReturn c i e k words s = settleChannel c (s.modChannel c fun ch =>
      { ch with outstanding := ch.outstanding - 1, returns := ch.returns.set i .free }) := by
  simp only [channelReturn, if_neg good, discards, Bool.false_eq_true, if_false]
  rfl

theorem channelReturn_bad (bad : k = .uncorrectable) (quiet : stopsRun s.channels[c] = false) (i : Fin 8)
    (words : List Word) : channelReturn c i e k words s = settleChannel c (s.modChannel c fun ch =>
      { ch with outstanding := ch.outstanding - 1, returns := ch.returns.set i .free }) := by
  simp only [channelReturn, if_pos bad, quiet, Bool.false_eq_true, if_false]
  rfl

theorem channelReturn_stops (bad : k = .uncorrectable) (stops : stopsRun s.channels[c] = true) (i : Fin 8)
    (words : List Word) : channelReturn c i e k words s = settleChannel c (s.modChannel c fun ch =>
      Channel.stopAt { ch with outstanding := ch.outstanding - 1, returns := ch.returns.set i .free } e.sequence) := by
  simp only [channelReturn, if_pos bad, stops, if_true]
  rfl

end ChannelReturn

section Deliver

variable {e : Issued} (k : WordClass) (words : List Word) (s : State)

theorem deliver_window (place : e.buffer = .window) : deliver e k words s = windowReturn e k words s := by
  rw [deliver, place]

theorem deliver_scrub (place : e.buffer = .scrubRecord) : deliver e k words s = scrubReturn k words s := by
  rw [deliver, place]

theorem deliver_channel {c : Fin 5} {i : Fin 8} (place : e.buffer = .returnSlot c i) :
    deliver e k words s = channelReturn c i e k words s := by
  rw [deliver, place]

end Deliver

/-- Settles O40: each destination by the branches of its own return. -/
theorem returnDestinations : Obligations.ReturnDestinations := by
  intro e k words s
  refine ⟨fun place => ⟨fun active => ?_, fun free => ?_⟩, fun b x place record => ⟨fun corrected fresh on => ?_, fun other => ?_⟩,
    fun place record => (deliver_scrub k words s place).trans (scrubReturn_empty record k words), fun c i place => ?_⟩
  · rw [deliver_window k words s place, windowReturn_reset active]
    rfl
  · rw [deliver_window k words s place, windowReturn_free free]
    refine ⟨_, rfl, rfl, rfl, fun i w there from_ => fillWindow_word ?_ there, fun i half four apart => fillWindow_outside ?_, rfl⟩
    · unfold windowFirst
      split
      · rename_i half
        exact from_ half
      · exact Nat.zero_le _
    · rw [windowFirst, if_pos half, four]
      have inRange := i.isLt
      omega
  · rw [deliver_scrub k words s place, scrubReturn_reading record, if_pos ⟨corrected, fresh, on⟩]
    rfl
  · rw [deliver_scrub k words s place, scrubReturn_reading record, if_neg other]
  · have keeps := keepsReturn_iff s.channels[c] e.sequence
    have stops := stopsRun_iff s.channels[c]
    rw [deliver_channel k words s place]
    refine ⟨fun good runs => channelReturn_kept good (keeps.2 runs) i words,
      fun good not => channelReturn_discarded good (Bool.eq_false_iff.2 (not ∘ keeps.1)) i words,
      fun bad notLive notStopped => channelReturn_bad bad
        (Bool.eq_false_iff.2 fun runs => (stops.1 runs).elim notLive notStopped) i words, fun p bad runs => ?_⟩
    rcases runs with ⟨live, first, rfl⟩ | ⟨stopped, q, stop, rfl⟩
    · rw [channelReturn_stops bad (stops.2 (.inl live)), State.modChannel, stopAt_first (by exact first)]
      rfl
    · rw [channelReturn_stops bad (stops.2 (.inr stopped)), State.modChannel, stopAt_again (by exact stop)]
      rfl

end Sys2Proof.Machine
end

section
/-! SUPPORT. The end of a write's data phase and the words it leaves in the stack (R35, R67, R142, R143); POP, coalescing and the
interrupt request line (R168, R169, R171, R172, R175). -/

namespace Sys2Proof.Machine

/-! ### Words and their halves -/

theorem shiftRight_append {m n : Nat} (x : BitVec m) (y : BitVec n) : ((x ++ y) >>> n).setWidth m = x := by
  ext i inRange
  simp [BitVec.getLsbD_append, BitVec.getLsbD_eq_getElem inRange]

theorem splitWord_append (hi lo : Word) : splitWord (hi ++ lo) = [lo, hi] := by
  rw [splitWord, BitVec.setWidth_append_eq_right, shiftRight_append]

theorem dataOf_append (c : BitVec 8) (d : BitVec 64) : dataOf (c ++ d) = d := BitVec.setWidth_append_eq_right

theorem codeOf_append (c : BitVec 8) (d : BitVec 64) : codeOf (c ++ d) = c := shiftRight_append c d

/-- Two 32-bit words give one 64-bit word, the first its low half. -/
theorem joinWords_getElem? (words : List Word) (j : Nat) {lo hi : Word} (low : words[2 * j]? = some lo)
    (high : words[2 * j + 1]? = some hi) : (joinWords words)[j]? = some (hi ++ lo) := by
  induction words using joinWords.induct generalizing j with
  | case1 w v rest ih =>
    cases j with
    | zero =>
      cases low
      cases high
      rfl
    | succ j => exact ih j low high
  | case2 words short =>
    obtain ⟨place, _⟩ := List.getElem?_eq_some_iff.1 high
    match words, short, place with
    | [], _, place => exact absurd place (by simp)
    | [_], _, place => exact absurd place (by simp)
    | w :: v :: rest, short, _ => exact (short w v rest rfl).elim

theorem joinWords_length (words : List Word) : (joinWords words).length = words.length / 2 := by
  induction words using joinWords.induct with
  | case1 w v rest ih =>
    simp only [joinWords, List.length_cons, ih]
    omega
  | case2 words short =>
    match words, short with
    | [], _ => rfl
    | [_], _ => simp [joinWords]
    | w :: v :: rest, short => exact (short w v rest rfl).elim

theorem splitWords_joinWords (words : List Word) (even : words.length % 2 = 0) :
    (joinWords words).flatMap splitWord = words := by
  induction words using joinWords.induct with
  | case1 w v rest ih =>
    have evenRest : rest.length % 2 = 0 := by
      simp only [List.length_cons] at even
      omega
    rw [joinWords, List.flatMap_cons, splitWord_append, ih evenRest]
    rfl
  | case2 words short =>
    match words, short, even with
    | [], _, _ => rfl
    | [_], _, even => exact absurd even (by simp)
    | w :: v :: rest, short, _ => exact (short w v rest rfl).elim

/-! ### The stack after a WRITE -/

/-- Of words written from one address on, each stands at its own. -/
theorem readContents_writes (ws : List StackWord) (n j : Nat) (m : List (Nat × StackWord)) {w : StackWord}
    (there : ws[j]? = some w) :
    readContents ((ws.zipIdx n).foldl (fun c w => writeContents c w.2 w.1) m) (n + j) = some w := by
  induction ws generalizing n j m with
  | nil => cases there
  | cons x ws ih =>
    rw [List.zipIdx_cons, List.foldl_cons]
    cases j with
    | zero =>
      cases there
      have later : ∀ y ∈ ws.zipIdx (n + 1), y.2 ≠ n := fun y inside =>
        Nat.ne_of_gt (List.le_snd_of_mem_zipIdx inside)
      refine (readContents_foldl_other _ _ n later).trans ?_
      exact readContents_writeContents_self m n w
    | succ j =>
      have next : n + (j + 1) = n + 1 + j := by omega
      rw [next]
      exact ih (n + 1) j _ there

theorem stackWord_storeWords {a j : Nat} {words : List Word} {d : BitVec 64} (s : State)
    (there : (joinWords words)[j]? = some d) : (storeWords a words s).stackWord (a / 8 + j) = protectedWord s d := by
  have written : readContents (storeWords a words s).stack.contents (a / 8 + j) = some (protectedWord s d) := by
    refine readContents_writes _ (wordAddress a) j _ ?_
    rw [List.getElem?_map, there, Option.map_some]
  rw [State.stackWord, written, Option.getD_some]

/-- What a WRITE sent is what the stack drives for a READ of the same address. -/
theorem storeWords_returned (a : Nat) {words : List Word} {z : Size} (s : State) (length : words.length = wordsOf z) :
    (List.range (stackWordsOf z)).map (fun i => (storeWords a words s).stackWord (a / 8 + i)) =
      (joinWords words).map (protectedWord s) := by
  have joined : (joinWords words).length = stackWordsOf z := by
    rw [joinWords_length, length]
    cases z <;> rfl
  refine List.ext_getElem (by rw [List.length_map, List.length_map, List.length_range, joined]) fun i inRange _ => ?_
  rw [List.getElem_map, List.getElem_map, List.getElem_range]
  refine stackWord_storeWords s (List.getElem?_eq_getElem ?_)
  rw [List.length_map, List.length_range] at inRange
  rwa [joined]

theorem dataOf_protectedWord (s : State) (d : BitVec 64) : dataOf (protectedWord s d) = d := dataOf_append _ d

theorem judgeWord_protected {s : State} (on : s.protectEn = true) (d : BitVec 64) :
    judgeWord (protectedWord s d) = (.clean, d) := by
  have code : codeOf (protectedWord s d) = Config.checkCode.code d := by
    rw [protectedWord, on]
    exact codeOf_append _ d
  rw [judgeWord, dataOf_protectedWord, code, classWord_clean rfl]

theorem classReturn_sent {s t : State} (same : t.protectEn = s.protectEn) {words : List Word}
    (even : words.length % 2 = 0) : classReturn t ((joinWords words).map (protectedWord s)) = (.clean, words) := by
  have asRead : ((joinWords words).map (protectedWord s)).flatMap (fun w => splitWord (dataOf w)) = words := by
    rw [List.flatMap_map]
    exact (flatMap_eq_of_mem fun d _ => congrArg splitWord (dataOf_protectedWord s d)).trans
      (splitWords_joinWords words even)
  cases on : s.protectEn with
  | false => rw [classReturn_unprotected (same.trans on), asRead]
  | true =>
    have clean (w : StackWord) (inside : w ∈ (joinWords words).map (protectedWord s)) : (judgeWord w).1 = .clean := by
      obtain ⟨d, _, rfl⟩ := List.mem_map.1 inside
      rw [judgeWord_protected on]
    have worst : worstFrom .clean (((joinWords words).map (protectedWord s)).map judgeWord) = .clean :=
      (worstFrom_clean _ _).2 ⟨rfl, List.forall_mem_map.2 clean⟩
    have data : ((joinWords words).map (protectedWord s)).flatMap (fun w => splitWord (judgeWord w).2) = words :=
      (flatMap_eq_of_mem fun w inside => congrArg splitWord (classWord_clean_data (clean w inside))).trans asRead
    rw [classReturn_protected (same.trans on), worst, if_neg (by decide), data]

/-! ### What the end of a write can change besides -/

/-- `t` differs from `s` at most in what the telling of a source and the end of a transfer reset act on. -/
def ToldPart (s t : State) : Prop :=
  ∃ slots channels cq flags scrub window transferReset,
    t = { s with
      slots := slots, channels := channels, cq := cq, flags := flags, scrub := scrub, window := window
      transferReset := transferReset }

theorem ToldPart.trans {s t u : State} (h : ToldPart s t) (k : ToldPart t u) : ToldPart s u := by
  obtain ⟨_, _, _, _, _, _, _, rfl⟩ := h
  obtain ⟨a, b, c, d, e, f, g, rfl⟩ := k
  exact ⟨a, b, c, d, e, f, g, rfl⟩

theorem RunPart.toldPart {s t : State} (h : RunPart s t) : ToldPart s t := by
  obtain ⟨a, b, c, d, rfl⟩ := h
  exact ⟨a, b, c, d, s.scrub, s.window, s.transferReset, Eq.refl _⟩

theorem tellSent_toldPart (e : Issued) (s : State) : ToldPart s (tellSent e s) := by
  unfold tellSent
  split
  · exact (channelSent_runPart _ _ s).toldPart
  · exact ⟨s.slots, s.channels, s.cq, _, s.scrub, _, s.transferReset, rfl⟩
  · split
    · exact ⟨s.slots, s.channels, s.cq, s.flags, _, s.window, s.transferReset, rfl⟩
    · exact RunPart.rfl.toldPart

theorem endTransferReset_toldPart (s : State) : ToldPart s (endTransferReset s) := by
  unfold endTransferReset
  split
  · exact ⟨s.slots, _, s.cq, _, s.scrub, s.window, _, rfl⟩
  · exact RunPart.rfl.toldPart

theorem endTransferReset_view (s : State) :
    (endTransferReset s).window = s.window ∧ (endTransferReset s).scrub = s.scrub := by
  unfold endTransferReset
  split <;> exact ⟨rfl, rfl⟩

theorem raise_keeps_flag {s : State} {f : Flag} (set : s.flag f = true) (g : Flag) : (s.raise g).flag f = true := by
  have view : (s.raise g).flagView = s.flags ||| oneBit 26 g.position ||| bit 26 s.cqReady := rfl
  have before : (s.flags ||| bit 26 s.cqReady).getLsbD f.position = true := set
  rw [BitVec.getLsbD_or, Bool.or_eq_true] at before
  rw [State.flag, view, BitVec.getLsbD_or, BitVec.getLsbD_or]
  rcases before with flag | ready
  · rw [flag, Bool.true_or, Bool.true_or]
  · rw [ready, Bool.or_true]

theorem endTransferReset_keeps_flag {s : State} {f : Flag} (set : s.flag f = true) : (endTransferReset s).flag f = true := by
  unfold endTransferReset
  split
  · exact raise_keeps_flag (s := { s with transferReset := false, channels := _ }) set _
  · exact set

/-- The state in which a write's source is told, its words stored and its WDB slot free. -/
def storedState (e : Issued) (rest : List Issued) (i : Fin 16) (words : List Word) (s : State) : State :=
  { storeWords e.address words { s with issued := rest } with wdb := s.wdb.set i none }

theorem takeSent_head {s : State} {e : Issued} {rest : List Issued} {i : Fin 16} {words : List Word}
    (head : endedHead s .write = some (e, rest)) (place : e.buffer = .wdb i) (held : s.wdb[i] = some words) :
    takeSent s = endTransferReset (tellSent e (storedState e rest i words s)) := by
  have holds : wdbWords s (.wdb i) = words := by rw [wdbWords, held, Option.getD_some]
  rw [takeSent, head]
  simp only [place, holds]
  rfl

section TellSent

variable {e : Issued} {s : State}

theorem tellSent_channel {c : Fin 5} (source : e.source = .ch c) : tellSent e s = channelSent c e.size s := by
  rw [tellSent, source]

theorem tellSent_window (source : e.source = .win) : tellSent e s = endWindow .done s := by
  rw [tellSent, source]

theorem tellSent_scrub {b : Nat} {held : List Word} (source : e.source = .scrub) (record : s.scrub.record = .writing b held) :
    tellSent e s = scrubStepEnd s := by
  rw [tellSent, source]
  simp only [record]

theorem channelSent_settles {c : Fin 5} (none : s.channels[c].formerSlot = none) (z : Size) : channelSent c z s =
    settleChannel c (s.modChannel c fun ch =>
      { ch with outstanding := ch.outstanding - 1, unitsReached := ch.unitsReached + unitsOf z }) := by
  rw [channelSent, none]

theorem channelSent_former {c : Fin 5} {k : Fin 64} (former : s.channels[c].formerSlot = some k) (z : Size) :
    (channelSent c z s).slots[k].doneUnits = s.channels[c].unitsReached + unitsOf z := by
  have units := modChannel_self s c fun ch =>
    { ch with outstanding := ch.outstanding - 1, unitsReached := ch.unitsReached + unitsOf z }
  rw [channelSent, former]
  simp only [modSlot_self, units]

end TellSent

/-- Settles O41: the stored words, the freed slot, the source that is told, and the round trip of what was sent. -/
theorem dataSent : Obligations.DataSent := by
  refine ⟨fun s e rest i words released head kind ended place held length => ?_, fun s a z words length => ?_⟩
  · have sent := takeSent_head (endedHead_eq head kind ended) place held
    have told := (tellSent_toldPart e (storedState e rest i words s)).trans (endTransferReset_toldPart _)
    have stack (x : Nat) : (takeSent s).stackWord x = (storeWords e.address words { s with issued := rest }).stackWord x := by
      obtain ⟨_, _, _, _, _, _, _, same⟩ := told
      rw [sent, same]
      rfl
    have joined : (joinWords words).length = stackWordsOf e.size := by
      rw [joinWords_length, length]
      cases e.size <;> rfl
    have view := endTransferReset_view (tellSent e (storedState e rest i words s))
    refine ⟨takeSent s, exec_eq released rfl, ?_, ?_, fun j lo hi low high => ?_, fun x outside => ?_, fun source => ?_,
      fun b burst source record => ?_, fun c source free none => ?_, fun c k source former => ?_, ?_⟩
    · obtain ⟨_, _, _, _, _, _, _, same⟩ := told
      rw [sent, same]
      rfl
    · obtain ⟨_, _, _, _, _, _, _, same⟩ := told
      rw [sent, same]
      rfl
    · rw [stack, stackWord_storeWords _ (joinWords_getElem? words j low high)]
      rfl
    · rw [stack]
      exact stackWord_storeWords_other e.address words { s with issued := rest } x (by rw [joined]; exact outside)
    · rw [sent, view.1, tellSent_window source]
      exact ⟨rfl, endTransferReset_keeps_flag (flag_raise _ _)⟩
    · rw [sent, view.2, tellSent_scrub source (by exact record)]
      rfl
    · have settles := channelSent_settles (s := storedState e rest i words s) none e.size
      have run := (settleChannel_runPart c ((storedState e rest i words s).modChannel c fun ch =>
        { ch with outstanding := ch.outstanding - 1, unitsReached := ch.unitsReached + unitsOf e.size }))
      have idle : takeSent s = settleChannel c ((storedState e rest i words s).modChannel c fun ch =>
          { ch with outstanding := ch.outstanding - 1, unitsReached := ch.unitsReached + unitsOf e.size }) := by
        rw [sent, tellSent_channel source, settles, endTransferReset_idle (run.transferReset.trans free)]
      have frame : (takeSent s).wdb = s.wdb.set i .none ∧ (takeSent s).stack =
          (storeWords e.address words { s with issued := rest }).stack := by
        obtain ⟨_, _, _, _, same⟩ := run
        rw [idle, same]
        exact ⟨rfl, rfl⟩
      rw [frame.1, frame.2, idle]
      cases size : e.size <;> rfl
    · rw [sent, tellSent_channel source, (endTransferReset_keeps _).2.2.2,
        channelSent_former (s := storedState e rest i words s) former]
      cases e.size <;> rfl
    · obtain ⟨_, _, _, _, _, _, _, same⟩ := told
      rw [sent, same]
      exact ⟨rfl, rfl, rfl, rfl⟩
  · intro t
    have even : words.length % 2 = 0 := by
      rw [length]
      cases z <;> rfl
    rw [storeWords_returned a s length]
    exact classReturn_sent (s := s) (t := t) rfl even

/-! ### POP and the holdoff timer -/

section Pop

variable {s : State}

theorem popRecord_empty (empty : s.cq.queue = []) : popRecord s = s.refuse .cqEmpty commandRegister := by
  rw [popRecord, empty]

theorem waitingPoster_none (unposted : ∀ c : Fin 5, s.channels[c].pendingRecord = none) : s.waitingPoster = none :=
  firstFin_eq_none.2 fun c => by rw [unposted c]; rfl

theorem waitingPoster_some {c : Fin 5} {r : PendingRecord} (waits : s.channels[c].pendingRecord = some r)
    (before : ∀ d : Fin 5, d < c → s.channels[d].pendingRecord = none) : s.waitingPoster = some c :=
  firstFin_eq_some (by rw [waits]; rfl) fun d lt => by rw [before d lt]; rfl

theorem popRecord_noPoster {x : Completion} {rest : List Completion} (head : s.cq.queue = x :: rest)
    (none : s.waitingPoster = none) : popRecord s = s.modCq fun u => u.popOff rest := by
  rw [popRecord, head]
  simp only [none]

theorem popRecord_poster {x : Completion} {rest : List Completion} {c : Fin 5} {k : Fin 64} {r : PendingRecord}
    (head : s.cq.queue = x :: rest) (poster : s.waitingPoster = some c) (waits : s.channels[c].pendingRecord = some r)
    (current : s.channels[c].current = some k) : popRecord s = finishRun c k (s.modCq fun u => u.popTo rest r) := by
  rw [popRecord, head]
  simp only [poster, waits, current]

end Pop

theorem CompletionUnit.popOff_last (u : CompletionUnit) : u.popOff [] =
    { u with queue := [], timer := none, latch := false } := by
  rw [CompletionUnit.popOff, CompletionUnit.afterPop, if_pos rfl]

theorem CompletionUnit.popOff_more (u : CompletionUnit) (y : Completion) (rest : List Completion) :
    u.popOff (y :: rest) = { u with queue := y :: rest, timer := u.load } := by
  rw [CompletionUnit.popOff, CompletionUnit.afterPop, if_neg (List.cons_ne_nil y rest)]
  rfl

theorem CompletionUnit.popTo_eq (u : CompletionUnit) (rest : List Completion) (r : PendingRecord) : u.popTo rest r =
    { u with
      queue := rest ++
        [{ sequence := u.nextSequence, slot := r.slot, channel := r.channel, result := r.result, tag := r.tag,
           doneUnits := r.doneUnits }]
      nextSequence := u.nextSequence + 1, timer := u.load } := by
  have some : ({ u with queue := rest }.post r).queue ≠ [] :=
    List.append_ne_nil_of_right_ne_nil _ (List.cons_ne_nil _ _)
  rw [CompletionUnit.popTo, CompletionUnit.afterPop, if_neg some]
  rfl

/-! ### The flags and the interrupt request line -/

theorem bit_getLsbD (b : Bool) (i : Nat) : (bit 26 b).getLsbD i = (b && decide (i = 0)) := by
  cases b
  · rw [bit, if_neg (by decide), BitVec.getLsbD_zero, Bool.false_and]
  · rw [bit, if_pos rfl, Bool.true_and, BitVec.getLsbD_one]
    rfl

theorem flag_eq (s : State) (f : Flag) :
    s.flag f = (s.flags.getLsbD f.position || (s.cqReady && decide (f.position = 0))) := by
  rw [State.flag, State.flagView, BitVec.getLsbD_or, bit_getLsbD]

theorem position_eq_zero (f : Flag) : f.position = 0 ↔ f = .cqReady := by
  cases f <;> simp [Flag.position]

theorem cqReady_iff (s : State) : s.cqReady = true ↔
    s.cq.threshold ≤ s.cq.queue.length ∨ (s.cq.latch = true ∧ s.cq.queue ≠ []) := by
  rw [State.cqReady, Bool.or_eq_true, Bool.and_eq_true, decide_eq_true_eq, decide_eq_true_eq, Nat.one_le_iff_ne_zero,
    ne_eq, ne_eq, List.length_eq_zero_iff]

/-- The 26 flags in the order of their places. -/
def allFlags : List Flag :=
  [.cqReady, .channelHalted 0, .channelHalted 1, .channelHalted 2, .channelHalted 3, .channelHalted 4, .linkRefused,
    .portOverrun 0, .portOverrun 1, .portOverrun 2, .portOverrun 3, .portUnderrun 0, .portUnderrun 1, .portUnderrun 2,
    .portUnderrun 3, .dataCorrected, .dataUncorrectable, .renewOverrun, .calFail, .portOnline, .portFault, .parkDone,
    .unparkDone, .windowDone, .hostRefused, .tresetDone]

theorem allFlags_position : ∀ i : Fin 26, (allFlags[i.val]'i.isLt).position = i.val := by decide

theorem ne_zero_iff_getLsbD (x : BitVec 26) : x ≠ 0#26 ↔ ∃ i < 26, x.getLsbD i = true := by
  constructor
  · intro some
    refine Decidable.byContradiction fun none => ?_
    refine some (BitVec.eq_of_getLsbD_eq fun i inRange => ?_)
    rw [BitVec.getLsbD_zero, Bool.eq_false_iff]
    exact fun set => none ⟨i, inRange, set⟩
  · rintro ⟨i, _, set⟩ rfl
    rw [BitVec.getLsbD_zero] at set
    contradiction

theorem irqLine_iff {s : State} (released : s.pinHeld = false) :
    s.irqLine = true ↔ ∃ f : Flag, s.flag f = true ∧ s.mask.getLsbD f.position = true := by
  rw [State.irqLine, released, Bool.not_false, Bool.true_and, bne_iff_ne, ne_zero_iff_getLsbD]
  constructor
  · rintro ⟨i, inRange, both⟩
    rw [BitVec.getLsbD_and, Bool.and_eq_true] at both
    refine ⟨allFlags[i]'inRange, ?_⟩
    rw [State.flag, allFlags_position ⟨i, inRange⟩]
    exact both
  · rintro ⟨f, set, on⟩
    exact ⟨f.position, BitVec.lt_of_getLsbD on, by rw [BitVec.getLsbD_and, on, Bool.and_true]; exact set⟩

/-- Settles O46: the queue's three lengths at a POP, and the levels of the flags. -/
theorem popAndCoalescing : Obligations.PopAndCoalescing := by
  refine ⟨fun s ⟨released, free⟩ => ?_, fun s released => ⟨fun zero => exec_eq released (if_pos zero), fun clear => ?_,
    fun f other => ?_, irqLine_iff released⟩⟩
  · have pops : exec .pop s = .next (popRecord s) := exec_eq released (unlessBusy_free _ _ free)
    refine ⟨fun empty => ?_, fun x one unposted => ?_, fun x y rest more unposted => ?_, fun x y rest c k r more waits current before => ?_⟩
    all_goals rw [pops]
    · rw [popRecord_empty empty]
      rfl
    · rw [popRecord_noPoster one (waitingPoster_none unposted), State.modCq, CompletionUnit.popOff_last]
    · rw [popRecord_noPoster more (waitingPoster_none unposted), State.modCq, CompletionUnit.popOff_more]
      rfl
    · rw [popRecord_poster more (waitingPoster_some waits before) waits current, State.modCq, CompletionUnit.popTo_eq]
      rfl
  · have zero : Flag.position .cqReady = 0 := rfl
    rw [flag_eq, zero, clear, Bool.false_or, decide_eq_true rfl, Bool.and_true, cqReady_iff]
  · rw [flag_eq, decide_eq_false (other ∘ (position_eq_zero f).1), Bool.and_false, Bool.or_false]

end Sys2Proof.Machine
end

section
/-! SUPPORT. What keeps the waiting commands and the stack's words, command by command, and the events that are not due
(R67, R87, R178; log 3, log 20). -/

namespace Sys2Proof.Machine

/-! ### Changes that keep the waiting commands and the words -/

/-- The waiting commands and the words of the stack. -/
def storedView (s : State) := (s.pending, s.stack.contents, s.stack.epoch)

/-- `t` has the waiting commands and the words of `s`. -/
def Kept (s t : State) : Prop := storedView t = storedView s

theorem Kept.rfl {s : State} : Kept s s := Eq.refl _

theorem Kept.trans {s t u : State} (h : Kept s t) (k : Kept t u) : Kept s u := Eq.trans k h

theorem Kept.refuse {s : State} (code : RefusalCode) (x : BitVec 8) : Kept s (s.refuse code x) := Eq.refl _

theorem unlessBusy_kept {x : BitVec 8} {f : State → State} {s : State} (hf : Kept s (f s)) : Kept s (s.unlessBusy x f) := by
  unfold State.unlessBusy
  split
  · exact .refuse _ _
  · exact hf

theorem HostPart.kept {s t : State} (h : HostPart s t) : Kept s t := by
  obtain ⟨_, _, _, _, _, rfl⟩ := h
  exact Eq.refl _

theorem StreamPart.kept {s t : State} (h : StreamPart s t) : Kept s t := by
  obtain ⟨_, _, _, _, _, rfl⟩ := h
  exact Eq.refl _

theorem AdmitPart.kept {s t : State} (h : AdmitPart s t) : Kept s t := by
  obtain ⟨_, _, _, _, _, _, _, _, rfl⟩ := h
  exact Eq.refl _

theorem BankPart.kept {s t : State} (h : BankPart s t) : Kept s t := by
  obtain ⟨_, _, rfl⟩ := h
  exact Eq.refl _

theorem TickPart.kept {s t : State} (h : TickPart s t) : Kept s t := by
  obtain ⟨_, _, _, _, _, _, _, _, rfl⟩ := h
  exact Eq.refl _

theorem ToldPart.kept {s t : State} (h : ToldPart s t) : Kept s t := by
  obtain ⟨_, _, _, _, _, _, _, rfl⟩ := h
  exact Eq.refl _

/-! ### Host commands and writes -/

theorem flush_kept (n : Fin 8) (s : State) : Kept s (flush n s) := by
  refine unlessBusy_kept ?_
  split
  · split <;> exact Eq.refl _
  · exact Eq.refl _

theorem start_kept (s : State) : Kept s (start s) := by
  refine unlessBusy_kept ?_
  split
  · exact Eq.refl _
  · split <;> exact Eq.refl _

theorem recal_kept (s : State) : Kept s (recal s) := unlessBusy_kept (by split <;> exact Eq.refl _)

theorem park_kept (s : State) : Kept s (park s) := unlessBusy_kept (by split <;> exact Eq.refl _)

theorem unpark_kept (s : State) : Kept s (unpark s) := by
  obtain ⟨_, refused⟩ | now | later := unpark_cases s
  · rw [refused]
    exact Eq.refl _
  · rw [now]
    exact Eq.refl _
  · rw [later]
    exact (tick_tickPart s).kept.trans (Eq.refl _)

theorem clearFaults_kept (s : State) : Kept s (clearFaults s) := unlessBusy_kept (Eq.refl _)

theorem windowCommand_kept (k : Kind) (z : Size) (s : State) : Kept s (windowCommand k z s) := by
  unfold windowCommand
  repeat' split
  all_goals exact Eq.refl _

theorem startTransferReset_kept (s : State) : Kept s (startTransferReset s) := by
  obtain ⟨_, _, _, _, _, _, _, _, _, _, frame⟩ := startTransferReset_frame s
  rw [frame]
  exact Eq.refl _

theorem clearFlags_kept (r : FlagReg) (v : Reg) (s : State) : Kept s (clearFlags r v s) := by
  unfold clearFlags
  dsimp only
  repeat' split
  all_goals exact Eq.refl _

theorem writeMask_kept (r : FlagReg) (v : Reg) (s : State) : Kept s (writeMask r v s) := unlessBusy_kept (Eq.refl _)

theorem writeField_kept (f : Fin 8) (v : Reg) (s : State) : Kept s (writeField f v s) := by
  refine unlessBusy_kept ?_
  split
  · exact Eq.refl _
  · split
    · exact Eq.refl _
    · split <;> exact Eq.refl _

theorem writeDirection_kept (p : Fin 4) (v : Reg) (s : State) : Kept s (writeDirection p v s) := by
  refine unlessBusy_kept ?_
  split
  · exact Eq.refl _
  · split <;> exact Eq.refl _

theorem writeEnable_kept (p : Fin 4) (v : Reg) (s : State) : Kept s (writeEnable p v s) :=
  unlessBusy_kept (by split <;> exact Eq.refl _)

theorem writeLayers_kept (v : Reg) (s : State) : Kept s (writeLayers v s) := by
  refine unlessBusy_kept ?_
  split
  · exact Eq.refl _
  · split <;> exact Eq.refl _

theorem writeScrubEn_kept (v : Reg) (s : State) : Kept s (writeScrubEn v s) := by
  refine unlessBusy_kept ?_
  split
  · dsimp only
    split <;> exact Eq.refl _
  · split <;> exact Eq.refl _
  · exact Eq.refl _

theorem inRange_kept {x : BitVec 8} {low high : Nat} {v : Reg} {set : Nat → State → State} {s : State}
    (h : ∀ n, Kept s (set n s)) : Kept s (inRange x low high v set s) := by
  unfold inRange
  split
  · exact h _
  · exact Eq.refl _

theorem configItem_kept {x : BitVec 8} {low high : Nat} {v : Reg} {set : Nat → State → State} {s : State}
    (h : ∀ n, Kept s (set n s)) : Kept s (configItem x low high v set s) := by
  unfold configItem
  split
  · exact inRange_kept h
  · exact Eq.refl _

theorem unlessWindowBusy_kept (x : BitVec 8) (f : Window → Window) (s : State) : Kept s (unlessWindowBusy x f s) := by
  unfold unlessWindowBusy
  split <;> exact Eq.refl _

theorem writeChannelItem_kept (c : Fin 5) (item : Nat) (x : BitVec 8) (v : Reg) (s : State) :
    Kept s (writeChannelItem c item x v s) := by
  unfold writeChannelItem
  split
  · exact inRange_kept fun _ => Eq.refl _
  · split
    · exact Eq.refl _
    · exact inRange_kept fun _ => Eq.refl _
  · split
    · exact Eq.refl _
    · exact inRange_kept fun _ => Eq.refl _
  · exact Eq.refl _

theorem writeSingle_kept (i : Nat) (x : BitVec 8) (v : Reg) (s : State) : Kept s (writeSingle i x v s) := by
  unfold writeSingle
  split
  case h_1 => exact writeMask_kept .a v s
  case h_2 => exact writeMask_kept .b v s
  case h_6 | h_7 => exact unlessWindowBusy_kept _ _ s
  case h_12 => exact writeLayers_kept v s
  case h_13 | h_14 => exact configItem_kept fun _ => Eq.refl _
  case h_15 => exact writeScrubEn_kept v s
  case h_3 | h_17 => exact Eq.refl _
  all_goals exact inRange_kept fun _ => Eq.refl _

theorem writePortBlock_kept (i : Nat) (x : BitVec 8) (v : Reg) (s : State) : Kept s (writePortBlock i x v s) := by
  unfold writePortBlock
  split
  · split
    · exact writeDirection_kept _ v s
    · exact writeEnable_kept _ v s
    · exact Eq.refl _
  · exact Eq.refl _

theorem writeOther_kept (x : BitVec 8) (v : Reg) (s : State) : Kept s (writeOther x v s) := by
  have window : Kept s (writeWindowBlock x.toNat x v s) := by
    unfold writeWindowBlock
    split
    · exact unlessWindowBusy_kept _ _ s
    · exact Eq.refl _
  have channel : Kept s (writeChannelBlock x.toNat x v s) := by
    unfold writeChannelBlock
    split
    · exact writeChannelItem_kept _ _ x v s
    · exact Eq.refl _
  have param : Kept s (writeParamBlock x.toNat x v s) := by
    unfold writeParamBlock
    split
    · exact configItem_kept fun _ => Eq.refl _
    · exact Eq.refl _
  unfold writeOther
  dsimp only
  split
  · exact writeField_kept _ v s
  · split
    · exact window
    · split
      · exact channel
      · split
        · exact writePortBlock_kept _ x v s
        · split
          · exact param
          · exact writeSingle_kept _ x v s

/-! ### The part's own events -/

theorem take_kept (p : Fin 4) (s : State) : Kept s (take p s) := by
  unfold take
  split <;> exact Eq.refl _

theorem strobeWith_kept (p : Fin 4) (w : Word) (m : Bool) (s : State) : Kept s (strobeWith p w m s) := by
  unfold strobeWith
  split
  · exact (arrive_streamPart p w m s).kept
  · exact take_kept p s

theorem strobe_kept (p : Fin 4) (s : State) : Kept s (strobe p s) := by
  unfold strobe
  split
  · exact Kept.trans (t := { s with freeCount := s.freeCount + 1 }) (Eq.refl _) (arrive_streamPart p _ _ _).kept
  · exact take_kept p s

theorem issueOnBus_kept (k : Kind) (c : Fin 8) (ends : Nat) (s : State) : Kept s (issueOnBus k c ends s) := Eq.refl _

theorem modMemPort_kept (f : MemPort → MemPort) (s : State) : Kept s (s.modMemPort f) := Eq.refl _

theorem stopRenewTimers_kept (s : State) : Kept s (stopRenewTimers s) := Eq.refl _

theorem raise_kept (f : Flag) (s : State) : Kept s (s.raise f) := Eq.refl _

theorem issuePark_kept (s : State) : Kept s (issuePark s) := by
  have parked : Kept ((stopRenewTimers s).modMemPort fun m => { m with state := .parked })
    (((stopRenewTimers s).modMemPort fun m => { m with state := .parked }).modStack fun m => { m with mode := .parked }) :=
    Eq.refl _
  exact (((stopRenewTimers_kept s).trans (modMemPort_kept _ _)).trans parked).trans (raise_kept _ _)

theorem ColumnPart.kept {s t : State} (h : ColumnPart s t) : Kept s t := by
  rw [ColumnPart] at h
  rw [h]
  exact Eq.refl _

theorem issuePattern_kept (s : State) : Kept s (issuePattern s) := by
  unfold issuePattern
  split
  · exact (issueOnBus_kept _ _ _ s).trans (modMemPort_kept _ _)
  · exact .rfl

theorem issue_kept (c : Choice) (s : State) : Kept s (issue c s) := by
  cases c with
  | openRow b row => exact Eq.refl _
  | shut b => exact Eq.refl _
  | column e => exact (issueColumn_frame e s).kept
  | renew l => exact Eq.refl _
  | patternRead => exact issuePattern_kept s
  | park => exact issuePark_kept s

theorem runSlot_kept (s : State) : Kept s (runSlot s) := by
  have carries (u : State) (bus : Option DramCommand) : Kept u { u with commandBus := bus, slotTaken := true } := Eq.refl _
  unfold runSlot
  split
  · exact (issue_kept _ s).trans (carries _ _)
  · exact carries s _

theorem commandSlot_kept (s : State) : Kept s (commandSlot s) := by
  unfold commandSlot
  split
  · exact .rfl
  · exact (settleBanks_bankPart s).kept.trans (runSlot_kept _)

theorem clearRecords_kept (s : State) : Kept s (clearRecords s) := Eq.refl _

theorem beginSweep_kept (s : State) : Kept s (beginSweep s) := Eq.refl _

theorem startRenewTimers_kept (s : State) : Kept s (startRenewTimers s) := Eq.refl _

theorem settleExpired_kept (s : State) : Kept s (settleExpired s) := by
  unfold settleExpired
  split
  · have setUp : Kept s (s.modStack fun m => { m with latencies := some (s.param .rdl, s.param .wdl), mode := .ready }) :=
      Eq.refl _
    exact (((setUp.trans (clearRecords_kept _)).trans (beginSweep_kept _)).trans (modMemPort_kept _ _)).trans
      (startRenewTimers_kept _)
  · exact Eq.refl _

theorem renewTimerExpired_kept (l : Fin 2) (s : State) : Kept s (renewTimerExpired l s) := by
  unfold renewTimerExpired
  repeat' split
  all_goals exact Eq.refl _

theorem deliver_kept (e : Issued) (k : WordClass) (words : List Word) (s : State) : Kept s (deliver e k words s) := by
  unfold deliver
  split
  · exact (channelReturn_runPart _ _ e k words s).hostPart.kept
  · unfold windowReturn
    split
    · exact Eq.refl _
    · dsimp only
      rw [endWindow_modWindow]
      exact Eq.refl _
  · unfold scrubReturn
    split
    · split <;> exact Eq.refl _
    · exact Eq.refl _
  · exact Eq.refl _

theorem recordClass_kept (k : WordClass) (burst : Nat) (src : Source) (s : State) : Kept s (recordClass k burst src s) := by
  cases k <;> exact Eq.refl _

theorem takeReturn_kept (flips : List StackWord) (s : State) : Kept s (takeReturn flips s) := by
  cases head : endedHead s .read with
  | none =>
    rw [takeReturn, head]
    exact Eq.refl _
  | some ended =>
    obtain ⟨e, rest⟩ := ended
    rw [takeReturn_head head]
    have left : Kept s { s with issued := rest } := Eq.refl _
    exact ((left.trans (recordClass_kept _ _ _ _)).trans (deliver_kept e _ _ _)).trans (endTransferReset_toldPart _).kept

theorem xptExpired_kept (s : State) : Kept s (xptExpired s) := by
  have renewed (u : State) (r : Vector Renew 2) : Kept u { u with renews := r } := Eq.refl _
  have ready (u : State) : Kept u (u.modStack fun m => { m with mode := .ready }) := Eq.refl _
  unfold xptExpired
  split
  · exact ((((renewed s _).trans (startRenewTimers_kept _)).trans (modMemPort_kept _ _)).trans (raise_kept _ _)).trans (ready _)
  · exact .rfl

theorem ite_kept {c : Prop} [Decidable c] {s t : State} (h : Kept s t) : Kept s (if c then t else s) := by
  split
  · exact h
  · exact Eq.refl _

/-! ### The entries to OFFLINE and FAULT -/

/-- `t` keeps the waiting commands of `s`, and the words too unless it has entered OFFLINE or FAULT. -/
def Preserves (s t : State) : Prop :=
  t.pending = s.pending
    ∧ (Kept s t ∨ (t.port.state ≠ s.port.state ∧ (t.port.state = .offline ∨ t.port.state = .fault)))

theorem Kept.preserves {s t : State} (h : Kept s t) : Preserves s t := ⟨congrArg Prod.fst h, .inl h⟩

theorem PortPart.pending {s t : State} (h : PortPart s t) : t.pending = s.pending := by
  obtain ⟨_, _, _, _, _, _, _, _, _, _, _, _, _, rfl⟩ := h
  rfl

theorem stop_preserves (s : State) : Preserves s (stop s) := by
  refine ⟨(stop_portPart s).pending, ?_⟩
  cases busy : s.transferReset with
  | true =>
    rw [stop, unlessBusy_busy _ _ busy]
    exact .inl (Eq.refl _)
  | false =>
    rw [stop, unlessBusy_free _ _ busy]
    split
    · rename_i fault
      rw [enterOffline_port, fault]
      exact .inr ⟨nofun, .inl rfl⟩
    · exact .inl (by split <;> exact Eq.refl _)

theorem stopCompleted_preserves (s : State) : Preserves s (stopCompleted s) := by
  refine ⟨(stopCompleted_portPart s).pending, ?_⟩
  unfold stopCompleted
  split
  · rename_i due
    rw [Bool.and_eq_true, Bool.and_eq_true, decide_eq_true_eq] at due
    obtain ⟨⟨online, _⟩, _⟩ := due
    rw [enterOffline_port, online]
    exact .inr ⟨nofun, .inl rfl⟩
  · exact .inl (Eq.refl _)

theorem finishSweep_words {s : State} : Kept s (finishSweep s)
    ∨ ((finishSweep s).port.state ≠ s.port.state ∧ (finishSweep s).port.state = .fault) := by
  unfold finishSweep
  dsimp only
  split
  · rename_i calibrating
    split
    · rw [enterFault_port, calibrating]
      exact .inr ⟨nofun, rfl⟩
    · exact .inl (Eq.refl _)
  · exact .inl (by split <;> exact Eq.refl _)
  · exact .inl (Eq.refl _)

theorem patternDataEnded_preserves (b : CapturedBeats) (s : State) : Preserves s (patternDataEnded b s) := by
  refine ⟨(patternDataEnded_portPart b s).pending, ?_⟩
  have compared (tap : Fin 32) : Kept s (compareLanes b tap s) := Eq.refl _
  unfold patternDataEnded
  split
  · split
    · split
      · exact .inl (Eq.refl _)
      · rename_i tap _ _ _ _
        exact (finishSweep_words (s := compareLanes b tap s)).imp (compared tap).trans fun ⟨moved, fault⟩ => ⟨moved, .inr fault⟩
    · exact .inl (Eq.refl _)
  · exact .inl (Eq.refl _)

end Sys2Proof.Machine
end

section
/-! SUPPORT. Every command completes and keeps the waiting commands; the frames of the channel commands and of the stack's words;
the events that are not due (R67, R87; log 3, log 20). -/

namespace Sys2Proof.Machine

/-! ### Every command -/

theorem onChannel_kept {n : Fin 8} {f : Fin 5 → State → State} {s : State} (h : ∀ c, HostPart s (f c s)) :
    Kept s (onChannel n f s) := (onChannel_hostPart n f s h).kept

/-- Every command of the command register but the device reset. -/
theorem command_preserves {n : Fin 8} {k : Fin 64} {z : Size} {code : Nat} {i : Instr}
    (named : commandOf n k z code = some i) (notReset : code ≠ 31) (s : State) : Preserves s (operation i s) := by
  unfold commandOf at named
  split at named <;> cases named
  case h_1 => exact (submit_hostPart n k s).kept.preserves
  case h_2 => exact (onChannel_kept fun c => enableChannel_hostPart c s).preserves
  case h_3 => exact (onChannel_kept fun c => disableChannel_hostPart c s).preserves
  case h_4 => exact (onChannel_kept fun c => cancelChannel_hostPart c s).preserves
  case h_5 => exact (onChannel_kept fun c => resumeChannel_hostPart c s).preserves
  case h_6 => exact (flush_kept n s).preserves
  case h_7 => exact (start_kept s).preserves
  case h_8 => exact (recal_kept s).preserves
  case h_9 => exact stop_preserves s
  case h_10 => exact (park_kept s).preserves
  case h_11 => exact (unpark_kept s).preserves
  case h_12 => exact (clearFaults_kept s).preserves
  case h_13 => exact (pop_hostPart s).kept.preserves
  case h_14 => exact (windowCommand_kept .read z s).preserves
  case h_15 => exact (windowCommand_kept .write z s).preserves
  case h_16 => exact (unlessBusy_kept (startTransferReset_kept s)).preserves
  case h_17 => exact absurd rfl notReset

theorem writeRegister_preserves {x : BitVec 8} {v : Reg} (notReset : v.toNat / 2048 = 31 → x ≠ 0#8) (s : State) :
    Preserves s (writeRegister x v s) := by
  by_cases command : x = 0#8
  · subst command
    rw [writeRegister_command]
    cases decoded : decodeCommand v with
    | some i =>
      rw [writeCommand_some decoded]
      exact command_preserves (decodeCommand_eq v ▸ decoded) (fun code => notReset code rfl) s
    | none =>
      rw [writeCommand_none decoded]
      exact (unlessBusy_kept (.refuse _ _)).preserves
  · have other : x ≠ commandRegister := command
    rw [writeRegister, if_neg other]
    split
    · exact (clearFlags_kept .a v s).preserves
    · split
      · exact (clearFlags_kept .b v s).preserves
      · exact (unlessBusy_kept (writeOther_kept x v s)).preserves

theorem readPaired_kept (item : PairedItem) (s : State) : Kept s (readPaired item s) := Eq.refl _

theorem recalSweepStarted_kept (s : State) : Kept s (recalSweepStarted s) := ite_kept (beginSweep_kept s)

theorem holdoffExpired_kept (s : State) : Kept s (holdoffExpired s) := ite_kept (Eq.refl _)

theorem modScrub_kept (f : Scrub → Scrub) (s : State) : Kept s (s.modScrub f) := Eq.refl _

theorem scrubIntervalExpired_kept (s : State) : Kept s (scrubIntervalExpired s) := ite_kept (modScrub_kept _ s)

/-- Only DATA_SENT writes a word, and only a device reset and the entry to OFFLINE or FAULT lose the words (R67, R87). -/
theorem operation_preserves {i : Instr} (notSent : i ≠ .dataSent) (notReset : i ≠ .deviceReset) (notPin : i ≠ .resetPin)
    (notCommand : ∀ v : Reg, v.toNat / 2048 = 31 → i ≠ .registerWrite 0#8 v) (s : State) : Preserves s (operation i s) := by
  cases i
  case submit n k => exact (submit_hostPart n k s).kept.preserves
  case enable n => exact (onChannel_kept fun c => enableChannel_hostPart c s).preserves
  case disable n => exact (onChannel_kept fun c => disableChannel_hostPart c s).preserves
  case cancel n => exact (onChannel_kept fun c => cancelChannel_hostPart c s).preserves
  case resume n => exact (onChannel_kept fun c => resumeChannel_hostPart c s).preserves
  case flush n => exact (flush_kept n s).preserves
  case start => exact (start_kept s).preserves
  case recal => exact (recal_kept s).preserves
  case stop => exact stop_preserves s
  case park => exact (park_kept s).preserves
  case unpark => exact (unpark_kept s).preserves
  case clearFaults => exact (clearFaults_kept s).preserves
  case pop => exact (pop_hostPart s).kept.preserves
  case windowRead z => exact (windowCommand_kept .read z s).preserves
  case windowWrite z => exact (windowCommand_kept .write z s).preserves
  case transferReset => exact (unlessBusy_kept (startTransferReset_kept s)).preserves
  case deviceReset => exact absurd rfl notReset
  case resetPin => exact absurd rfl notPin
  case flagClear r v => exact (clearFlags_kept r v s).preserves
  case maskWrite r v => exact (writeMask_kept r v s).preserves
  case descriptorFieldWrite f v => exact (writeField_kept f v s).preserves
  case portDirectionWrite p v => exact (writeDirection_kept p v s).preserves
  case portEnableWrite p v => exact (writeEnable_kept p v s).preserves
  case layersWrite v => exact (writeLayers_kept v s).preserves
  case scrubEnWrite v => exact (writeScrubEn_kept v s).preserves
  case pairedLowRead item => exact (readPaired_kept item s).preserves
  case registerWrite x v =>
    exact writeRegister_preserves (fun code zero => notCommand v code (congrArg (Instr.registerWrite · v) zero)) s
  case portArrival p w m => exact (strobeWith_kept p w m s).preserves
  case portTake p => exact (strobe_kept p s).preserves
  case wordPlacement p => exact (placeWord_streamPart p s).kept.preserves
  case admission => exact (admitNext_admitPart s).kept.preserves
  case commandSlot => exact (commandSlot_kept s).preserves
  case a2cExpiry b => exact (a2cExpired_bankPart b s).kept.preserves
  case shtExpiry b => exact (shtExpired_bankPart b s).kept.preserves
  case autoShut b => exact (autoShutTaken_bankPart b s).kept.preserves
  case idleTimerExpiry b => exact (idleExpired_bankPart b s).kept.preserves
  case renewingTimerExpiry l => exact (renewingExpired_bankPart l s).kept.preserves
  case renewTimerExpiry l => exact (renewTimerExpired_kept l s).preserves
  case settleExpiry => exact (settleExpired_kept s).preserves
  case patternReadDataEnd b => exact patternDataEnded_preserves b s
  case recalSweepStart => exact (recalSweepStarted_kept s).preserves
  case stopComplete => exact stopCompleted_preserves s
  case xptExpiry => exact (xptExpired_kept s).preserves
  case holdoffExpiry => exact (holdoffExpired_kept s).preserves
  case scrubIntervalExpiry => exact (scrubIntervalExpired_kept s).preserves
  case ret flips => exact (takeReturn_kept flips s).preserves
  case dataSent => exact absurd rfl notSent
  case transferResetEnd => exact (endTransferReset_toldPart s).kept.preserves
  case resetPinRelease => exact Kept.rfl.preserves

theorem deviceReset_pending (s : State) : (deviceReset s).pending = s.pending := rfl

theorem EndPart.pending {s t : State} (h : EndPart s t) : t.pending = s.pending := by
  obtain ⟨_, _, _, _, _, _, _, _, _, _, _, rfl⟩ := h
  rfl

theorem operation_pending (i : Instr) (s : State) : (operation i s).pending = s.pending := by
  by_cases notSent : i = .dataSent
  · rw [notSent]
    exact (takeSent_endPart s).pending
  by_cases notReset : i = .deviceReset
  · rw [notReset]
    exact deviceReset_pending s
  by_cases notPin : i = .resetPin
  · rw [notPin]
    exact deviceReset_pending s
  by_cases command : ∃ v : Reg, v.toNat / 2048 = 31 ∧ i = .registerWrite 0#8 v
  · obtain ⟨v, code, rfl⟩ := command
    have decoded : decodeCommand v = some .deviceReset := by rw [decodeCommand_eq, code, commandOf]
    have writes : operation (.registerWrite 0#8 v) s = deviceReset s := (writeRegister_command v s).trans (writeCommand_some decoded s)
    rw [writes, deviceReset_pending]
  · exact (operation_preserves notSent notReset notPin (fun v code same => command ⟨v, code, same⟩) s).1

theorem exec_pending {i : Instr} {s t : State} (h : exec i s = .next t) : t.pending = s.pending := by
  obtain rfl | rfl | rfl := exec_cases h
  · rfl
  · rfl
  · exact operation_pending i s

theorem exec_next (i : Instr) (s : State) : ∃ t, exec i s = .next t := by
  cases held : s.pinHeld with
  | false => exact ⟨_, exec_released i held⟩
  | true =>
    by_cases release : i = .resetPinRelease
    · rw [release]
      exact ⟨_, exec_release_held held⟩
    · exact ⟨s, exec_held held release⟩

/-! ### Events that are not due -/

section NotDue

variable {s : State}

theorem settleExpired_notDue (h : s.port.state ≠ .starting ∨ s.port.settle ≠ some 0) : settleExpired s = s := by
  refine if_neg fun due => ?_
  rw [Bool.and_eq_true, decide_eq_true_eq, decide_eq_true_eq] at due
  exact h.elim (fun away => away due.1) fun runs => runs due.2

theorem patternDataEnded_notDue (h : ∀ tap ends, s.port.sweep = .inFlight tap ends → s.mclk < ends) (b : CapturedBeats) :
    patternDataEnded b s = s := by
  unfold patternDataEnded
  split
  · rename_i tap ends flight
    exact if_neg (Nat.not_le.2 (h tap ends flight))
  · rfl

theorem scrubIntervalExpired_notDue (h : s.scrub.timer ≠ some 0 ∨ s.scrub.enable = false ∨ s.port.state ≠ .online
    ∨ s.port.stopPending = true ∨ s.scrub.record ≠ .empty ∨ s.scrub.offered ≠ none) : scrubIntervalExpired s = s := by
  refine if_neg fun due => ?_
  rw [Bool.and_eq_true, decide_eq_true_eq, scrubTimerRuns_iff] at due
  obtain ⟨zero, enable, online, running, empty, free⟩ := due
  rw [enable, running] at h
  simp only [zero, online, empty, free, ne_eq, not_true_eq_false, Bool.true_eq_false, Bool.false_eq_true, or_self] at h

theorem endedHead_notDue {k : Kind} (h : ∀ e rest, s.issued = e :: rest → e.kind ≠ k ∨ s.mclk < e.ends) :
    endedHead s k = none := by
  cases head : endedHead s k with
  | none => rfl
  | some ended =>
    obtain ⟨e, rest⟩ := ended
    obtain ⟨issued, kind, reached⟩ := endedHead_some head
    exact ((h e rest issued).elim (fun other => other kind) fun later => absurd reached (Nat.not_le.2 later)).elim

theorem takeReturn_none (h : endedHead s .read = none) (flips : List StackWord) : takeReturn flips s = s := by
  rw [takeReturn, h]

theorem takeSent_none (h : endedHead s .write = none) : takeSent s = s := by
  rw [takeSent, h]

/-- A word is placed only in RUN, with room, for an OUTBOUND slot, from a filled return slot at the delivery pointer. -/
theorem nextPlacement_some {p : Fin 4} (h : (nextPlacement s p).isSome = true) :
    s.channels[channelOfPort p].state = .run ∧ s.ports[p].fifo.length < 32
      ∧ headReturn s.channels[channelOfPort p] ≠ none
      ∧ ∃ k, s.channels[channelOfPort p].current = some k ∧ s.slots[k].op = .outbound := by
  unfold nextPlacement at h
  dsimp only at h
  split at h
  · rename_i may
    rw [Bool.and_eq_true, decide_eq_true_eq, decide_eq_true_eq] at may
    split at h
    · rename_i k i current head
      split at h
      · rename_i op _
        exact ⟨may.1, may.2, fun none => Option.some_ne_none _ (head.symm.trans none), k, current, op⟩
      · contradiction
    · contradiction
  · contradiction

theorem placeWord_none {p : Fin 4} (h : nextPlacement s p = none) : placeWord p s = s := by
  rw [placeWord, h]

theorem endTransferReset_notDue (h : s.transferReset = false ∨ s.issued ≠ []) : endTransferReset s = s := by
  refine if_neg fun due => ?_
  rw [Bool.and_eq_true, List.isEmpty_iff] at due
  exact h.elim (fun free => Bool.false_ne_true (free.symm.trans due.1)) fun waits => waits due.2

end NotDue

/-- Settles O2: each operation keeps the queue, and an event that is not due is the other branch of its definition. -/
theorem commandsCompleteAndKeepTheQueue : Obligations.CommandsCompleteAndKeepTheQueue := by
  refine ⟨fun i s => ?_, fun s released => ⟨fun l runs => exec_eq released (if_neg runs),
    fun away => exec_eq released (settleExpired_notDue away), fun beats away => exec_eq released (patternDataEnded_notDue away beats),
    fun runs => exec_eq released (if_neg runs), fun away => exec_eq released (scrubIntervalExpired_notDue away),
    fun flips away => exec_eq released (takeReturn_none (endedHead_notDue fun e rest head => ?_) flips),
    fun away => exec_eq released (takeSent_none (endedHead_notDue fun e rest head => ?_)), fun p => ?_,
    fun away => exec_eq released (endTransferReset_notDue away)⟩⟩
  · obtain ⟨t, done⟩ := exec_next i s
    exact ⟨t, done, exec_pending done⟩
  · exact (away e rest head).imp_left fun write => by rw [write]; decide
  · exact (away e rest head).imp_left fun read => by rw [read]; decide
  · intro ch away
    refine exec_eq released (placeWord_none (Option.not_isSome_iff_eq_none.1 fun places => ?_))
    obtain ⟨run, room, head, k, current, op⟩ := nextPlacement_some places
    rcases away with off | full | noHead | other
    · exact off run
    · exact absurd room (Nat.not_lt.2 full)
    · exact head (headReturn_eq_none.2 noHead)
    · exact other k current op

/-! ### The frames -/

theorem hostPart_of_named {i : Instr} (named : (∃ n k, i = .submit n k)
      ∨ (∃ n, i = .enable n ∨ i = .disable n ∨ i = .cancel n ∨ i = .resume n) ∨ i = .pop) (s : State) :
    HostPart s (operation i s) := by
  rcases named with ⟨n, k, rfl⟩ | ⟨n, rfl | rfl | rfl | rfl⟩ | rfl
  · exact submit_hostPart n k s
  · exact onChannel_hostPart n _ s fun c => enableChannel_hostPart c s
  · exact onChannel_hostPart n _ s fun c => disableChannel_hostPart c s
  · exact onChannel_hostPart n _ s fun c => cancelChannel_hostPart c s
  · exact onChannel_hostPart n _ s fun c => resumeChannel_hostPart c s
  · exact pop_hostPart s

theorem Kept.stackWord {s t : State} (h : Kept s t) (a : Nat) : t.stackWord a = s.stackWord a := by
  obtain ⟨_, stored⟩ := Prod.mk.inj h
  obtain ⟨contents, epoch⟩ := Prod.mk.inj stored
  rw [State.stackWord, State.stackWord, contents, epoch]

/-- Settles O54: the part each channel command acts on, and the words by what the operation preserves. -/
theorem frames : Obligations.Frames := by
  refine ⟨fun i s t named done => ?_, fun i s t done notSent notReset notPin notCommand stays a => ?_⟩
  · have notRelease : i ≠ .resetPinRelease := by
      rcases named with ⟨n, k, rfl⟩ | ⟨n, rfl | rfl | rfl | rfl⟩ | rfl <;> nofun
    by_cases held : s.pinHeld = true
    · rw [exec_held held notRelease] at done
      cases done
      rfl
    · obtain ⟨_, _, _, _, _, same⟩ := hostPart_of_named named s
      rw [operation_eq ((Bool.not_eq_true _).mp held) done] at same
      rw [same]
  · obtain rfl | rfl | rfl := exec_cases done
    · rfl
    · rfl
    · obtain ⟨_, kept | ⟨moved, left⟩⟩ := operation_preserves notSent notReset notPin notCommand s
      · exact kept.stackWord a
      · rcases stays with still | ⟨notOffline, notFault⟩
        · exact absurd still moved
        · exact (left.elim notOffline notFault).elim

end Sys2Proof.Machine
end

section
/-! SUPPORT. The start and the end of a transfer reset, block by block (R29, R43, R90, R105, R106, R127, R153, R176, R182, R184). -/

namespace Sys2Proof.Machine

/-! ### A discarded access and a channel (R43) -/

/-- A channel once a waiting access is discarded: the return slot it held is free, and a channel's own access counts no more. -/
def Channel.discard (c : Fin 5) (ch : Channel) (e : Entry) : Channel :=
  { ch with
    returns := Vector.ofFn fun i => if e.buffer = .returnSlot c i then .free else ch.returns[i]
    outstanding := if e.source = .ch c then ch.outstanding - 1 else ch.outstanding }

theorem Channel.discard_return (c : Fin 5) (ch : Channel) (e : Entry) (i : Fin 8) :
    (ch.discard c e).returns[i] = if e.buffer = .returnSlot c i then .free else ch.returns[i] := getElem_ofFn_fin _ i

/-- The place that a discarded access holds becomes free. -/
def freePlace (b : Buffer) (s : State) : State :=
  match b with
  | .returnSlot c i => (releaseWdb b s).setReturn c i .free
  | _ => releaseWdb b s

/-- A discarded access counts no more at its source. -/
def uncount (src : Source) (s : State) : State :=
  match src with
  | .ch c => s.modChannel c fun ch => { ch with outstanding := ch.outstanding - 1 }
  | _ => s

theorem discardEntry_eq (s : State) (e : Entry) : discardEntry s e = uncount e.source (freePlace e.buffer s) := by
  unfold discardEntry uncount freePlace
  cases e.buffer <;> cases e.source <;> rfl

theorem releaseWdb_channels (b : Buffer) (s : State) : (releaseWdb b s).channels = s.channels := by
  unfold releaseWdb
  split <;> rfl

theorem freePlace_channel (b : Buffer) (c : Fin 5) (s : State) : (freePlace b s).channels[c] =
    { s.channels[c] with
      returns := Vector.ofFn fun i => if b = .returnSlot c i then .free else s.channels[c].returns[i] } := by
  have others (notReturn : ∀ i, b ≠ .returnSlot c i) :
      (Vector.ofFn fun i => if b = .returnSlot c i then .free else s.channels[c].returns[i]) = s.channels[c].returns :=
    vector_ext_fin fun i => (getElem_ofFn_fin _ i).trans (if_neg (notReturn i))
  cases b with
  | returnSlot d j =>
    have freed : (freePlace (.returnSlot d j) s).channels[c] =
        if d = c then { s.channels[d] with returns := s.channels[d].returns.set j .free } else s.channels[c] :=
      modChannel_channel _ d c _
    rw [freed]
    by_cases same : d = c
    · subst same
      have table : (s.channels[d].returns.set j .free) =
          Vector.ofFn fun i => if Buffer.returnSlot d j = .returnSlot d i then .free else s.channels[d].returns[i] :=
        vector_ext_fin fun i => by
          rw [getElem_set_fin, getElem_ofFn_fin]
          simp only [Buffer.returnSlot.injEq, true_and]
      rw [if_pos rfl, table]
    · rw [if_neg same, others fun i at_ => same (Buffer.returnSlot.inj at_).1]
  | wdb i =>
    rw [others nofun]
    exact congrArg (·[c]) (releaseWdb_channels (.wdb i) s)
  | window =>
    rw [others nofun]
    exact congrArg (·[c]) (releaseWdb_channels .window s)
  | scrubRecord =>
    rw [others nofun]
    exact congrArg (·[c]) (releaseWdb_channels .scrubRecord s)

theorem uncount_channel (src : Source) (c : Fin 5) (s : State) : (uncount src s).channels[c] =
    { s.channels[c] with
      outstanding := if src = .ch c then s.channels[c].outstanding - 1 else s.channels[c].outstanding } := by
  cases src with
  | ch d =>
    refine (modChannel_channel s d c _).trans ?_
    by_cases same : d = c
    · subst same
      rw [if_pos rfl, if_pos rfl]
    · rw [if_neg same, if_neg fun at_ => same (Source.ch.inj at_)]
  | win => rw [if_neg nofun]; rfl
  | scrub => rw [if_neg nofun]; rfl

theorem discardEntry_channel (s : State) (e : Entry) (c : Fin 5) :
    (discardEntry s e).channels[c] = s.channels[c].discard c e := by
  rw [discardEntry_eq, uncount_channel, freePlace_channel]
  rfl

theorem discardEntries_channel (es : List Entry) (s : State) (c : Fin 5) :
    (es.foldl discardEntry s).channels[c] = es.foldl (Channel.discard c) s.channels[c] := by
  induction es generalizing s with
  | nil => rfl
  | cons e es ih => rw [List.foldl_cons, ih, discardEntry_channel, List.foldl_cons]

/-- The discards touch a channel's return slots and its count, which falls by the accesses of its own. -/
theorem discards_eq (c : Fin 5) (es : List Entry) (ch : Channel) : ∃ returns, es.foldl (Channel.discard c) ch =
    { ch with returns := returns, outstanding := ch.outstanding - (es.filter fun e => e.source = .ch c).length } := by
  induction es generalizing ch with
  | nil => exact ⟨ch.returns, rfl⟩
  | cons e es ih =>
    obtain ⟨returns, rest⟩ := ih (ch.discard c e)
    have count : (ch.discard c e).outstanding - (es.filter fun e => e.source = .ch c).length =
        ch.outstanding - ((e :: es).filter fun e => e.source = .ch c).length := by
      rw [Channel.discard, List.filter_cons]
      by_cases own : e.source = .ch c
      · rw [if_pos own, if_pos (decide_eq_true own), List.length_cons, Nat.sub_sub, Nat.add_comm]
      · rw [if_neg own, if_neg (by simpa using own)]
    rw [List.foldl_cons, rest, count]
    exact ⟨returns, rfl⟩

theorem discards_return (c : Fin 5) (i : Fin 8) (es : List Entry) (ch : Channel) :
    ((∃ e ∈ es, e.buffer = .returnSlot c i) → (es.foldl (Channel.discard c) ch).returns[i] = .free)
      ∧ ((∀ e ∈ es, e.buffer ≠ .returnSlot c i) → (es.foldl (Channel.discard c) ch).returns[i] = ch.returns[i]) := by
  induction es generalizing ch with
  | nil => exact ⟨fun ⟨_, h, _⟩ => absurd h List.not_mem_nil, fun _ => rfl⟩
  | cons e es ih =>
    obtain ⟨freed, kept⟩ := ih (ch.discard c e)
    rw [List.foldl_cons]
    refine ⟨fun ⟨f, hf, own⟩ => ?_, fun others => ?_⟩
    · by_cases later : ∃ g ∈ es, g.buffer = .returnSlot c i
      · exact freed later
      · have first : e.buffer = .returnSlot c i := by
          rcases List.mem_cons.1 hf with rfl | hf
          · exact own
          · exact absurd ⟨f, hf, own⟩ later
        rw [kept fun g hg is => later ⟨g, hg, is⟩, Channel.discard_return, if_pos first]
    · rw [kept fun g hg => others g (List.mem_cons_of_mem _ hg), Channel.discard_return, if_neg (others e List.mem_cons_self)]

/-! ### The start (R184) -/

/-- A transfer reset once every block but the window has been reset. -/
@[irreducible] def transferResetBegun (s : State) : State :=
  { s with
    transferReset := true, paq := [], wdb := (s.paq.foldl discardEntry s).wdb
    channels := mapVector (s.paq.foldl discardEntry s).channels Channel.atTransferReset
    slots := mapVector s.slots (Slot.atTransferReset (s.paq.foldl discardEntry s).channels)
    ports := mapVector s.ports fun p => { p with fifo := [] }
    flags := s.flags &&& keptFlags, cq := s.cq.atTransferReset
    scrub := Scrub.load { s.scrub with offered := none, record := .empty }
    arbiter := { turn := 0, remaining := s.channels[(0 : Fin 5)].weight, scrubWait := 0 } }

theorem discarded_weight (s : State) (c : Fin 5) :
    (mapVector (s.paq.foldl discardEntry s).channels Channel.atTransferReset)[c].weight = s.channels[c].weight := by
  obtain ⟨_, same⟩ := discards_eq c s.paq s.channels[c]
  rw [getElem_mapVector, discardEntries_channel, same]
  rfl

theorem startTransferReset_eq (s : State) : startTransferReset s =
    endTransferReset (windowAtTransferReset (s.paq.any fun e => e.source = .win) (transferResetBegun s)) := by
  have weight := discarded_weight s 0
  obtain ⟨wdb, channels, discarded⟩ := discardEntries_discardPart s.paq s
  rw [discarded] at weight
  rw [startTransferReset, discardWaiting, transferResetBegun, discarded, ← weight]
  rfl

theorem windowAtTransferReset_idle {s : State} (w : Bool) (free : s.window.status ≠ .busy) :
    windowAtTransferReset w s = { s with window := { s.window with status := .idle } } := if_neg free

theorem windowAtTransferReset_aborts {s : State} {w : Bool} (busy : s.window.status = .busy)
    (waits : s.window.offered.isSome = true ∨ w = true) : windowAtTransferReset w s = endWindow .aborted s := by
  rw [windowAtTransferReset, if_pos busy, if_pos (by rwa [Bool.or_eq_true])]

theorem windowAtTransferReset_issued {s : State} {w : Bool} (busy : s.window.status = .busy)
    (notOffered : s.window.offered = none) (notWaiting : w = false) : windowAtTransferReset w s = s := by
  rw [windowAtTransferReset, if_pos busy, notOffered, notWaiting]
  exact if_neg (by decide)

/-- The window's part of the start: the window itself and WINDOW_DONE. -/
theorem windowAtTransferReset_frame (w : Bool) (s : State) : ∃ window flags,
    windowAtTransferReset w s = { s with window := window, flags := flags }
      ∧ ∀ j, j < 26 → j ≠ 23 → flags.getLsbD j = s.flags.getLsbD j := by
  unfold windowAtTransferReset
  split
  · split
    · refine ⟨_, _, rfl, fun j inRange other => ?_⟩
      refine (raise_getLsbD .windowDone _ inRange).trans ?_
      rw [decide_eq_false (p := j = Flag.windowDone.position) other, Bool.or_false]
      rfl
    · exact ⟨s.window, s.flags, rfl, fun _ _ _ => rfl⟩
  · exact ⟨_, s.flags, rfl, fun _ _ _ => rfl⟩

theorem keptFlags_getLsbD {j : Nat} (inRange : j < 26) :
    keptFlags.getLsbD j = decide (j = 16 ∨ j = 17 ∨ j = 18 ∨ j = 20) := by
  have each : ∀ j : Fin 26, keptFlags.getLsbD j = decide (j.val = 16 ∨ j.val = 17 ∨ j.val = 18 ∨ j.val = 20) := by decide
  exact each ⟨j, inRange⟩

section Begun

variable (s : State)

theorem begun_window : (transferResetBegun s).window = s.window := by
  unfold transferResetBegun
  rfl

theorem begun_issued : (transferResetBegun s).issued = s.issued := by
  unfold transferResetBegun
  rfl

theorem begun_paq : (transferResetBegun s).paq = [] := by
  unfold transferResetBegun
  rfl

theorem begun_transferReset : (transferResetBegun s).transferReset = true := by
  unfold transferResetBegun
  rfl

theorem begun_flags {j : Nat} (inRange : j < 26) :
    (transferResetBegun s).flags.getLsbD j = (s.flags.getLsbD j && decide (j = 16 ∨ j = 17 ∨ j = 18 ∨ j = 20)) := by
  unfold transferResetBegun
  rw [BitVec.getLsbD_and, keptFlags_getLsbD inRange]

theorem begun_windowDone : (transferResetBegun s).flags.getLsbD 23 = false := by
  rw [begun_flags s (by decide), decide_eq_false (by decide), Bool.and_false]

theorem begun_wdb (i : Fin 16) : ((∃ e ∈ s.paq, e.buffer = .wdb i) → (transferResetBegun s).wdb[i] = none)
    ∧ ((∀ e ∈ s.paq, e.buffer ≠ .wdb i) → (transferResetBegun s).wdb[i] = s.wdb[i]) := by
  unfold transferResetBegun
  exact discardEntries_wdb s.paq s i

theorem begun_channel (c : Fin 5) :
    (transferResetBegun s).channels[c] = (s.paq.foldl (Channel.discard c) s.channels[c]).atTransferReset := by
  unfold transferResetBegun
  rw [getElem_mapVector, discardEntries_channel]

/-- A channel after the start, but for its return slots (R127). -/
theorem begun_channel_eq (c : Fin 5) : ∃ returns, (transferResetBegun s).channels[c] =
    { s.channels[c] with
      state := .off, queue := [], current := none, runMode := none, stopPoint := none, pendingRecord := none
      offered := none, lastRefused := none, endedByMark := false, formerSlot := s.channels[c].current
      outstanding := s.channels[c].outstanding - (s.paq.filter fun e => e.source = .ch c).length
      returns := returns } := by
  obtain ⟨_, same⟩ := discards_eq c s.paq s.channels[c]
  rw [begun_channel, same]
  exact ⟨_, rfl⟩

theorem begun_return (c : Fin 5) (i : Fin 8) :
    ((∃ e ∈ s.paq, e.buffer = .returnSlot c i) → (transferResetBegun s).channels[c].returns[i] = .free)
      ∧ ((∀ e ∈ s.paq, e.buffer ≠ .returnSlot c i) →
          (transferResetBegun s).channels[c].returns[i] = freeIfFilled s.channels[c].returns[i]) := by
  obtain ⟨freed, kept⟩ := discards_return c i s.paq s.channels[c]
  have mapped : (transferResetBegun s).channels[c].returns[i] =
      freeIfFilled (s.paq.foldl (Channel.discard c) s.channels[c]).returns[i] := by
    rw [begun_channel]
    exact getElem_mapVector _ _ i
  rw [mapped]
  exact ⟨fun held => congrArg freeIfFilled (freed held), fun others => congrArg freeIfFilled (kept others)⟩

theorem begun_slot (k : Fin 64) :
    (transferResetBegun s).slots[k] = s.slots[k].atTransferReset (s.paq.foldl discardEntry s).channels := by
  unfold transferResetBegun
  exact getElem_mapVector _ _ k

theorem discarded_unitsReached (c : Fin 5) :
    (s.paq.foldl discardEntry s).channels[c].unitsReached = s.channels[c].unitsReached := by
  obtain ⟨_, same⟩ := discards_eq c s.paq s.channels[c]
  rw [discardEntries_channel, same]

theorem begun_port (p : Fin 4) : (transferResetBegun s).ports[p] = { s.ports[p] with fifo := [] } := by
  unfold transferResetBegun
  exact getElem_mapVector _ _ p

end Begun

theorem Slot.atTransferReset_host {channels : Vector Channel 5} {d : Slot} (own : d.owner = .host) :
    d.atTransferReset channels = d := by
  rw [Slot.atTransferReset, own]

theorem Slot.atTransferReset_taken {channels : Vector Channel 5} {d : Slot} (own : d.owner = .taken) :
    d.atTransferReset channels = { d with owner := .host, holder := none, result := .cancelled, doneUnits := 0 } := by
  rw [Slot.atTransferReset, own]

theorem Slot.atTransferReset_running {channels : Vector Channel 5} {d : Slot} {c : Fin 5} (own : d.owner = .running)
    (held : d.holder = some c) : d.atTransferReset channels =
      { d with owner := .host, holder := none, result := .cancelled, doneUnits := channels[c].unitsReached } := by
  rw [Slot.atTransferReset, own, held]

/-! ### The end (R184) -/

theorem endTransferReset_due {s : State} (resets : s.transferReset = true) (empty : s.issued = []) :
    endTransferReset s =
      { s with
        transferReset := false, channels := mapVector s.channels Channel.afterTransferReset
        flags := (s.raise .tresetDone).flags } := by
  refine if_pos ?_
  rw [resets, empty]
  rfl

theorem any_win (es : List Entry) : (es.any fun e => e.source = .win) = true ↔ ∃ e ∈ es, e.source = .win := by
  simp only [List.any_eq_true, decide_eq_true_eq]

theorem exec_transferReset {s : State} (working : Working s) : exec .transferReset s = .next
    (endTransferReset (windowAtTransferReset (s.paq.any fun e => e.source = .win) (transferResetBegun s))) :=
  exec_eq working.1 ((unlessBusy_free _ _ working.2).trans (startTransferReset_eq s))

/-- Settles O53: the start block by block, the window last, and the end at an empty issued list. -/
theorem transferReset_startAndEnd : Obligations.TransferReset := by
  refine ⟨fun s working issued => ?_, fun s released resets empty => ?_, fun s working empty => ?_⟩
  · obtain ⟨window, flags, framed, others⟩ :=
      windowAtTransferReset_frame (s.paq.any fun e => e.source = .win) (transferResetBegun s)
    have done := exec_transferReset working
    have waits : endTransferReset { transferResetBegun s with window := window, flags := flags } = _ :=
      endTransferReset_notDue (.inr ((begun_issued s).symm ▸ issued))
    rw [framed, waits] at done
    refine ⟨_, done, begun_transferReset s, begun_paq s, begun_issued s, nextSource_closed fun takes => ?_, fun c => ?_,
      begun_wdb s, begun_return s, fun c => ?_, fun k => ⟨fun own => ?_, fun own => ?_, fun c own held => ?_⟩, begun_port s,
      ?_, ?_, ?_, fun j inRange other => ?_, fun free => ?_, fun busy waits => ?_, fun busy notOffered notWaiting => ?_, ?_⟩
    · exact Bool.false_ne_true (takes.2.2.1.symm.trans (begun_transferReset s))
    · obtain ⟨_, same⟩ := begun_channel_eq s c
      dsimp only
      rw [same]
      exact ⟨rfl, rfl, rfl, rfl, rfl, rfl, rfl, rfl, rfl, rfl⟩
    · obtain ⟨_, same⟩ := begun_channel_eq s c
      dsimp only
      rw [same]
      exact ⟨rfl, rfl, rfl⟩
    · exact (begun_slot s k).trans (Slot.atTransferReset_host own)
    · exact (begun_slot s k).trans (Slot.atTransferReset_taken own)
    · refine (begun_slot s k).trans ((Slot.atTransferReset_running own held).trans ?_)
      rw [discarded_unitsReached]
    · unfold transferResetBegun
      exact ⟨rfl, rfl, rfl, rfl, rfl, rfl⟩
    · unfold transferResetBegun
      exact ⟨rfl, rfl, rfl, rfl⟩
    · unfold transferResetBegun
      rfl
    · exact (others j inRange other).trans (begun_flags s inRange)
    · have idle := framed.symm.trans (windowAtTransferReset_idle _ ((begun_window s).symm ▸ free))
      have status := congrArg State.window idle
      have kept := congrArg State.flags idle
      dsimp only at status kept ⊢
      rw [status, kept, begun_window]
      exact ⟨rfl, begun_windowDone s⟩
    · have aborted := framed.symm.trans (windowAtTransferReset_aborts ((congrArg Window.status (begun_window s)).trans busy)
        (waits.imp (fun offered => (begun_window s).symm ▸ offered) (any_win s.paq).2))
      have status := congrArg State.window aborted
      have raised := congrArg State.flags aborted
      rw [endWindow_eq] at status raised
      dsimp only at status raised ⊢
      rw [status, raised, raise_getLsbD _ _ (by decide), begun_window]
      exact ⟨rfl, Bool.or_true _⟩
    · have nothing : (s.paq.any fun e => e.source = .win) = false :=
        Bool.eq_false_iff.2 fun waits => ((any_win s.paq).1 waits).elim fun e he => notWaiting e he.1 he.2
      have left := framed.symm.trans (windowAtTransferReset_issued
        ((congrArg Window.status (begun_window s)).trans busy) ((begun_window s).symm ▸ notOffered) nothing)
      have status := congrArg State.window left
      have kept := congrArg State.flags left
      dsimp only at status kept ⊢
      rw [status, kept]
      exact ⟨begun_window s, begun_windowDone s⟩
    · unfold transferResetBegun
      rfl
  · exact ⟨_, exec_eq released (endTransferReset_due resets empty), rfl, rfl, fun c => getElem_mapVector _ _ c, rfl⟩
  · obtain ⟨window, flags, framed, _⟩ :=
      windowAtTransferReset_frame (s.paq.any fun e => e.source = .win) (transferResetBegun s)
    have done := exec_transferReset working
    have ends : endTransferReset { transferResetBegun s with window := window, flags := flags } = _ :=
      endTransferReset_due (begun_transferReset s) ((begun_issued s).trans empty)
    rw [framed, ends] at done
    refine ⟨_, done, rfl, flag_raise _ _, begun_paq s, fun c => ?_⟩
    obtain ⟨_, same⟩ := begun_channel_eq s c
    dsimp only
    rw [getElem_mapVector, same]
    exact ⟨rfl, rfl, rfl, fun i => by simp [Channel.afterTransferReset]⟩

end Sys2Proof.Machine
end
